-- ==== Sys2Proof/Word.lean ====
section
/-! DEFINITION. The word types of the machine (spec/00_scope.md R6, R7): every value is an unsigned bit vector. -/

namespace Sys2Proof

/-- A byte: a general register, a timer, one location of memory (R6 `REG_W`, `TIMER_W`). -/
abbrev Byte := BitVec 8

/-- A 16-bit word: an instruction, `I`, `PC`, one stack entry (R6 `I_W`, `PC_W`, `STACK_W`, `INSN_BYTES`). -/
abbrev Word := BitVec 16

/-- A nibble: a register index, a key index, a row count (R9 `fam`, `x`, `y`, `n`). -/
abbrev Nibble := BitVec 4

/-- A 12-bit operand: the field `nnn` (R9). -/
abbrev Addr12 := BitVec 12

end Sys2Proof
end

