-- ==== Sys2Proof/Config.lean ====
section
/-! DEFINITION. The parameters of the hardware (spec/00_scope.md R6): the constants, and the three values the spec leaves
OPEN together with the random input, each an uninterpreted constant. -/

namespace Sys2Proof

/-- `MEM_SIZE`: bytes of main memory (R6). -/
def Config.memSize : Nat := 4096

/-- `PROG_BASE`: first address of program code, value of `PC` after `Create` (R6, R61). -/
def Config.progBase : Nat := 0x200

/-- `ROM_MAX`: the largest loadable program (R6, R294). -/
def Config.romMax : Nat := 3584

/-- `GLYPH_BYTES`: bytes of one font glyph (R6). -/
def Config.glyphBytes : Nat := 5

/-- The font the hardware is built with: `FONT_BASE` with its constraint `0 <= FONT_BASE <= 0x1B0`, and the 80 bytes of
`FONT_TABLE` (R6, R42). -/
structure Font where
  base  : Fin 433
  table : Vector Byte 80
  deriving DecidableEq, Repr

/-- `FONT_BASE` is OPEN (R42, D14): no value is chosen (DESIGN CHOICE, safe, log entry 1). -/
opaque Config.fontBase : Fin 433

/-- `FONT_TABLE` is OPEN (R43, D15): no byte is chosen (DESIGN CHOICE, safe, log entry 1). -/
opaque Config.fontTable : Vector Byte 80

/-- `KEYWAIT_PICK` is OPEN (R233, D13): which of several pressed keys Fx0A reports, as an index into the list of the
pressed keys, reduced modulo its length where it is used (DESIGN CHOICE, safe, log entry 2). -/
opaque Config.keyPick : List Nibble → Nat

/-- The bytes the random generator presents when nobody outside fixes them (R171, R274, D17): free values
(DESIGN CHOICE, safe, log entry 3). -/
opaque Config.randomByte : Nat → Byte

/-- The font of this machine: both parts are OPEN. -/
def Config.font : Font := ⟨Config.fontBase, Config.fontTable⟩

/-- The spec's default for `FONT_BASE` and `FONT_TABLE` (R42, R43, G1: from general knowledge). No definition of the
machine uses it; the tests put it into a state where a vector of the spec names the default (log entry 1). -/
def Config.defaultFont : Font where
  base := 0
  table := #v[
    0xF0, 0x90, 0x90, 0x90, 0xF0,  0x20, 0x60, 0x20, 0x20, 0x70,  0xF0, 0x10, 0xF0, 0x80, 0xF0,  0xF0, 0x10, 0xF0, 0x10, 0xF0,
    0x90, 0x90, 0xF0, 0x10, 0x10,  0xF0, 0x80, 0xF0, 0x10, 0xF0,  0xF0, 0x80, 0xF0, 0x90, 0xF0,  0xF0, 0x10, 0x20, 0x40, 0x40,
    0xF0, 0x90, 0xF0, 0x90, 0xF0,  0xF0, 0x90, 0xF0, 0x10, 0xF0,  0xF0, 0x90, 0xF0, 0x90, 0x90,  0xE0, 0x90, 0xE0, 0x90, 0xE0,
    0xF0, 0x80, 0x80, 0x80, 0xF0,  0xE0, 0x90, 0x90, 0x90, 0xE0,  0xF0, 0x80, 0xF0, 0x80, 0xF0,  0xF0, 0x80, 0xF0, 0x80, 0x80]

end Sys2Proof
end

