-- ==== Sys2Proof/Syntax.lean ====
section
/-! DEFINITION. The instructions: one constructor per row of spec/opcode_table.json (spec/30_encoding.md R100), and the six
fields every instruction word has (spec/00_scope.md R9). A nibble the hardware ignores (the low one of 5xy0 and 9xy0, the
`y` of 8xy6 and 8xyE; R101) is no operand and is not kept. -/

namespace Sys2Proof

/-- The six overlapping fields cut from every instruction word (R9, R123). -/
structure Fields where
  fam : Nibble
  x   : Nibble
  y   : Nibble
  n   : Nibble
  kk  : Byte
  nnn : Addr12
  deriving DecidableEq, Repr

/-- The 34 instructions (R3, R100). Register operands are 4 bits wide, so each can name all 16 registers (R92). -/
inductive Instr where
  /-- 00E0 `CLS` (R210). -/
  | cls
  /-- 00EE `RET` (R140). -/
  | ret
  /-- 1nnn `JP nnn` (R141). -/
  | jp (nnn : Addr12)
  /-- 2nnn `CALL nnn` (R142). -/
  | call (nnn : Addr12)
  /-- 3xkk `SE Vx, kk` (R143). -/
  | seImm (x : Nibble) (kk : Byte)
  /-- 4xkk `SNE Vx, kk` (R144). -/
  | sneImm (x : Nibble) (kk : Byte)
  /-- 5xy0 `SE Vx, Vy` (R145). -/
  | seReg (x y : Nibble)
  /-- 6xkk `LD Vx, kk` (R160). -/
  | ldImm (x : Nibble) (kk : Byte)
  /-- 7xkk `ADD Vx, kk` (R161). -/
  | addImm (x : Nibble) (kk : Byte)
  /-- 8xy0 `LD Vx, Vy` (R162). -/
  | ldReg (x y : Nibble)
  /-- 8xy1 `OR Vx, Vy` (R163). -/
  | orReg (x y : Nibble)
  /-- 8xy2 `AND Vx, Vy` (R164). -/
  | andReg (x y : Nibble)
  /-- 8xy3 `XOR Vx, Vy` (R165). -/
  | xorReg (x y : Nibble)
  /-- 8xy4 `ADD Vx, Vy` (R166). -/
  | addReg (x y : Nibble)
  /-- 8xy5 `SUB Vx, Vy` (R167). -/
  | sub (x y : Nibble)
  /-- 8xy6 `SHR Vx` (R168). -/
  | shr (x : Nibble)
  /-- 8xy7 `SUBN Vx, Vy` (R169). -/
  | subn (x y : Nibble)
  /-- 8xyE `SHL Vx` (R170). -/
  | shl (x : Nibble)
  /-- 9xy0 `SNE Vx, Vy` (R146). -/
  | sneReg (x y : Nibble)
  /-- Annn `LD I, nnn` (R190). -/
  | ldI (nnn : Addr12)
  /-- Bnnn `JP V0, nnn` (R147). -/
  | jpV0 (nnn : Addr12)
  /-- Cxkk `RND Vx, kk` (R171). -/
  | rnd (x : Nibble) (kk : Byte)
  /-- Dxyn `DRW Vx, Vy, n` (R211). -/
  | drw (x y n : Nibble)
  /-- Ex9E `SKP Vx` (R230). -/
  | skp (x : Nibble)
  /-- ExA1 `SKNP Vx` (R231). -/
  | sknp (x : Nibble)
  /-- Fx07 `LD Vx, DT` (R232). -/
  | ldVxDt (x : Nibble)
  /-- Fx0A `LD Vx, K` (R233). -/
  | ldVxK (x : Nibble)
  /-- Fx15 `LD DT, Vx` (R234). -/
  | ldDtVx (x : Nibble)
  /-- Fx18 `LD ST, Vx` (R235). -/
  | ldStVx (x : Nibble)
  /-- Fx1E `ADD I, Vx` (R191). -/
  | addI (x : Nibble)
  /-- Fx29 `LD F, Vx` (R192). -/
  | ldF (x : Nibble)
  /-- Fx33 `LD B, Vx` (R193). -/
  | ldB (x : Nibble)
  /-- Fx55 `LD [I], Vx` (R194). -/
  | ldMemVx (x : Nibble)
  /-- Fx65 `LD Vx, [I]` (R195). -/
  | ldVxMem (x : Nibble)
  deriving DecidableEq, Repr

end Sys2Proof
end

