-- ==== Sys2Proof/WellFormed.lean ====
section
/-! DEFINITION. Well-formedness of decoded data. An `Instr` needs no check: each operand's type is exactly as wide as its
field (spec/30_encoding.md R92), so no term of `Instr` is ill-formed. The six `Fields` do need one, because they overlap
(spec/00_scope.md R9): not every six values come from one word. -/

namespace Sys2Proof

/-- `kk = y * 16 + n` (R9). -/
def Fields.kkAgrees (f : Fields) : Bool := f.kk == f.y ++ f.n

/-- `nnn = x * 256 + kk` (R9). -/
def Fields.nnnAgrees (f : Fields) : Bool := f.nnn == f.x ++ f.kk

/-- The six fields are those of one word (R9). -/
def Fields.wellFormed (f : Fields) : Bool := f.kkAgrees && f.nnnAgrees

end Sys2Proof
end

