-- ==== Sys2Proof/Decode.lean ====
section
/-! DEFINITION. Decode and encode (spec/30_encoding.md): a word's fields, the dispatch on them (R94 to R98), the encoder
written from the formats (R91), and the opcode map itself (R100). -/

namespace Sys2Proof

/-- Why a word is no instruction: it is unrecognized (R99). The machine reports such a word and goes on (R126); it is no
trap. -/
inductive DecodeError where
  | unrecognized (w : Word)
  deriving DecidableEq, Repr

/-- The big-endian word of two bytes: the byte at the lower address is the high byte (R64). -/
def wordOfBytes (hi lo : Byte) : Word := hi ++ lo

/-- The byte of a word that lies at the lower address (R64). -/
def highByte (w : Word) : Byte := w.extractLsb' 8 8

/-- The byte of a word that lies at the higher address (R64). -/
def lowByte (w : Word) : Byte := w.extractLsb' 0 8

/-- The six fields of a word (R8, R9). -/
def fieldsOf (w : Word) : Fields where
  fam := w.extractLsb' 12 4
  x   := w.extractLsb' 8 4
  y   := w.extractLsb' 4 4
  n   := w.extractLsb' 0 4
  kk  := w.extractLsb' 0 8
  nnn := w.extractLsb' 0 12

/-- Family 0 compares the whole word: 00E0, 00EE, and nothing else (R95, D19). -/
def family0 (f : Fields) : Option Instr :=
  match f.nnn.toNat with
  | 0x0E0 => some .cls
  | 0x0EE => some .ret
  | _ => none

/-- Family 8 branches on the low nibble `n` (R96, D19). -/
def family8 (f : Fields) : Option Instr :=
  match f.n.toNat with
  | 0x0 => some (.ldReg f.x f.y)
  | 0x1 => some (.orReg f.x f.y)
  | 0x2 => some (.andReg f.x f.y)
  | 0x3 => some (.xorReg f.x f.y)
  | 0x4 => some (.addReg f.x f.y)
  | 0x5 => some (.sub f.x f.y)
  | 0x6 => some (.shr f.x)
  | 0x7 => some (.subn f.x f.y)
  | 0xE => some (.shl f.x)
  | _ => none

/-- Family E branches on the low byte `kk` (R97, D19). -/
def familyE (f : Fields) : Option Instr :=
  match f.kk.toNat with
  | 0x9E => some (.skp f.x)
  | 0xA1 => some (.sknp f.x)
  | _ => none

/-- Family F branches on the low byte `kk` (R97, D19). -/
def familyF (f : Fields) : Option Instr :=
  match f.kk.toNat with
  | 0x07 => some (.ldVxDt f.x)
  | 0x0A => some (.ldVxK f.x)
  | 0x15 => some (.ldDtVx f.x)
  | 0x18 => some (.ldStVx f.x)
  | 0x1E => some (.addI f.x)
  | 0x29 => some (.ldF f.x)
  | 0x33 => some (.ldB f.x)
  | 0x55 => some (.ldMemVx f.x)
  | 0x65 => some (.ldVxMem f.x)
  | _ => none

/-- The 16-way branch on the family nibble (R94). Families 5 and 9 never look at `n` (R98, C4). -/
def selectInstr (f : Fields) : Option Instr :=
  match f.fam.toNat with
  | 0x0 => family0 f
  | 0x1 => some (.jp f.nnn)
  | 0x2 => some (.call f.nnn)
  | 0x3 => some (.seImm f.x f.kk)
  | 0x4 => some (.sneImm f.x f.kk)
  | 0x5 => some (.seReg f.x f.y)
  | 0x6 => some (.ldImm f.x f.kk)
  | 0x7 => some (.addImm f.x f.kk)
  | 0x8 => family8 f
  | 0x9 => some (.sneReg f.x f.y)
  | 0xA => some (.ldI f.nnn)
  | 0xB => some (.jpV0 f.nnn)
  | 0xC => some (.rnd f.x f.kk)
  | 0xD => some (.drw f.x f.y f.n)
  | 0xE => familyE f
  | 0xF => familyF f
  | _ => none

/-- Decode a word: total, no state read but the word (R93, R123, R124). -/
def decode (w : Word) : Except DecodeError Instr :=
  match selectInstr (fieldsOf w) with
  | some i => .ok i
  | none => .error (.unrecognized w)

/-- Decode the two bytes of an instruction as they lie in memory (R64, R90). -/
def decodeBytes (hi lo : Byte) : Except DecodeError Instr := decode (wordOfBytes hi lo)

/-- Format NNN (R91). -/
def wordNNN (fam : Nibble) (nnn : Addr12) : Word := fam ++ nnn

/-- Formats XKK and XS (R91): in XS the low byte is the sub-opcode. -/
def wordXKK (fam x : Nibble) (kk : Byte) : Word := (fam ++ x) ++ kk

/-- Formats XY and XYN (R91): in XY the low nibble is the sub-opcode or ignored. -/
def wordXYN (fam x y n : Nibble) : Word := (fam ++ x) ++ (y ++ n)

/-- The canonical word of an instruction: ignored nibbles are 0 (R98, R100, R103). -/
def encode : Instr → Word
  | .cls => 0x00E0
  | .ret => 0x00EE
  | .jp nnn => wordNNN 0x1 nnn
  | .call nnn => wordNNN 0x2 nnn
  | .seImm x kk => wordXKK 0x3 x kk
  | .sneImm x kk => wordXKK 0x4 x kk
  | .seReg x y => wordXYN 0x5 x y 0x0
  | .ldImm x kk => wordXKK 0x6 x kk
  | .addImm x kk => wordXKK 0x7 x kk
  | .ldReg x y => wordXYN 0x8 x y 0x0
  | .orReg x y => wordXYN 0x8 x y 0x1
  | .andReg x y => wordXYN 0x8 x y 0x2
  | .xorReg x y => wordXYN 0x8 x y 0x3
  | .addReg x y => wordXYN 0x8 x y 0x4
  | .sub x y => wordXYN 0x8 x y 0x5
  | .shr x => wordXYN 0x8 x 0x0 0x6
  | .subn x y => wordXYN 0x8 x y 0x7
  | .shl x => wordXYN 0x8 x 0x0 0xE
  | .sneReg x y => wordXYN 0x9 x y 0x0
  | .ldI nnn => wordNNN 0xA nnn
  | .jpV0 nnn => wordNNN 0xB nnn
  | .rnd x kk => wordXKK 0xC x kk
  | .drw x y n => wordXYN 0xD x y n
  | .skp x => wordXKK 0xE x 0x9E
  | .sknp x => wordXKK 0xE x 0xA1
  | .ldVxDt x => wordXKK 0xF x 0x07
  | .ldVxK x => wordXKK 0xF x 0x0A
  | .ldDtVx x => wordXKK 0xF x 0x15
  | .ldStVx x => wordXKK 0xF x 0x18
  | .addI x => wordXKK 0xF x 0x1E
  | .ldF x => wordXKK 0xF x 0x29
  | .ldB x => wordXKK 0xF x 0x33
  | .ldMemVx x => wordXKK 0xF x 0x55
  | .ldVxMem x => wordXKK 0xF x 0x65

/-- One row of the opcode map: a word `w` is the instruction when `w & mask = bits` (R100; the map's column `match`). -/
structure OpcodeRow where
  mnemonic : String
  bits     : Word
  mask     : Word
  deriving DecidableEq, Repr

/-- The row of the opcode map an instruction belongs to (R100, spec/opcode_table.json). -/
def Instr.row : Instr → OpcodeRow
  | .cls => ⟨"CLS", 0x00E0, 0xFFFF⟩
  | .ret => ⟨"RET", 0x00EE, 0xFFFF⟩
  | .jp _ => ⟨"JP_nnn", 0x1000, 0xF000⟩
  | .call _ => ⟨"CALL_nnn", 0x2000, 0xF000⟩
  | .seImm _ _ => ⟨"SE_Vx__kk", 0x3000, 0xF000⟩
  | .sneImm _ _ => ⟨"SNE_Vx__kk", 0x4000, 0xF000⟩
  | .seReg _ _ => ⟨"SE_Vx__Vy", 0x5000, 0xF000⟩
  | .ldImm _ _ => ⟨"LD_Vx__kk", 0x6000, 0xF000⟩
  | .addImm _ _ => ⟨"ADD_Vx__kk", 0x7000, 0xF000⟩
  | .ldReg _ _ => ⟨"LD_Vx__Vy", 0x8000, 0xF00F⟩
  | .orReg _ _ => ⟨"OR_Vx__Vy", 0x8001, 0xF00F⟩
  | .andReg _ _ => ⟨"AND_Vx__Vy", 0x8002, 0xF00F⟩
  | .xorReg _ _ => ⟨"XOR_Vx__Vy", 0x8003, 0xF00F⟩
  | .addReg _ _ => ⟨"ADD_Vx__Vy", 0x8004, 0xF00F⟩
  | .sub _ _ => ⟨"SUB_Vx__Vy", 0x8005, 0xF00F⟩
  | .shr _ => ⟨"SHR_Vx", 0x8006, 0xF00F⟩
  | .subn _ _ => ⟨"SUBN_Vx__Vy", 0x8007, 0xF00F⟩
  | .shl _ => ⟨"SHL_Vx", 0x800E, 0xF00F⟩
  | .sneReg _ _ => ⟨"SNE_Vx__Vy", 0x9000, 0xF000⟩
  | .ldI _ => ⟨"LD_I__nnn", 0xA000, 0xF000⟩
  | .jpV0 _ => ⟨"JP_V0__nnn", 0xB000, 0xF000⟩
  | .rnd _ _ => ⟨"RND_Vx__kk", 0xC000, 0xF000⟩
  | .drw _ _ _ => ⟨"DRW_Vx__Vy__n", 0xD000, 0xF000⟩
  | .skp _ => ⟨"SKP_Vx", 0xE09E, 0xF0FF⟩
  | .sknp _ => ⟨"SKNP_Vx", 0xE0A1, 0xF0FF⟩
  | .ldVxDt _ => ⟨"LD_Vx__DT", 0xF007, 0xF0FF⟩
  | .ldVxK _ => ⟨"LD_Vx__K", 0xF00A, 0xF0FF⟩
  | .ldDtVx _ => ⟨"LD_DT__Vx", 0xF015, 0xF0FF⟩
  | .ldStVx _ => ⟨"LD_ST__Vx", 0xF018, 0xF0FF⟩
  | .addI _ => ⟨"ADD_I__Vx", 0xF01E, 0xF0FF⟩
  | .ldF _ => ⟨"LD_F__Vx", 0xF029, 0xF0FF⟩
  | .ldB _ => ⟨"LD_B__Vx", 0xF033, 0xF0FF⟩
  | .ldMemVx _ => ⟨"LD__I___Vx", 0xF055, 0xF0FF⟩
  | .ldVxMem _ => ⟨"LD_Vx___I", 0xF065, 0xF0FF⟩

/-- One instruction of each kind, its operands 0, in the map's order. -/
def sampleInstrs : List Instr :=
  [.cls, .ret, .jp 0, .call 0, .seImm 0 0, .sneImm 0 0, .seReg 0 0, .ldImm 0 0, .addImm 0 0, .ldReg 0 0, .orReg 0 0,
   .andReg 0 0, .xorReg 0 0, .addReg 0 0, .sub 0 0, .shr 0, .subn 0 0, .shl 0, .sneReg 0 0, .ldI 0, .jpV0 0, .rnd 0 0,
   .drw 0 0 0, .skp 0, .sknp 0, .ldVxDt 0, .ldVxK 0, .ldDtVx 0, .ldStVx 0, .addI 0, .ldF 0, .ldB 0, .ldMemVx 0, .ldVxMem 0]

/-- The opcode map: its 34 rows (R100). -/
def opcodeMap : List OpcodeRow := sampleInstrs.map Instr.row

/-- The bits of a word that its instruction neither matches nor uses (R101). -/
def ignoredBits : Instr → Word
  | .seReg _ _ | .sneReg _ _ => 0x000F
  | .shr _ | .shl _ => 0x00F0
  | .cls | .ret | .jp _ | .call _ | .seImm _ _ | .sneImm _ _ | .ldImm _ _ | .addImm _ _ | .ldReg _ _ | .orReg _ _
  | .andReg _ _ | .xorReg _ _ | .addReg _ _ | .sub _ _ | .subn _ _ | .ldI _ | .jpV0 _ | .rnd _ _ | .drw _ _ _
  | .skp _ | .sknp _ | .ldVxDt _ | .ldVxK _ | .ldDtVx _ | .ldStVx _ | .addI _ | .ldF _ | .ldB _ | .ldMemVx _
  | .ldVxMem _ => 0x0000

/-- The word of an instruction whose bits are `w`, numbered as spec/opcode_table.json numbers them; every bit from `nbits`
on is 0. Each instruction is one word (R90), so bit 0 of `w` is the word's least significant bit. -/
def tableWord (nbits w : Nat) : Word := BitVec.ofNat 16 (w % 2 ^ nbits)

/-- What the decoder reads from such an instruction, laid out in memory order and read back (R64). -/
def decodeTableWord (nbits w : Nat) : Option Instr :=
  match decodeBytes (highByte (tableWord nbits w)) (lowByte (tableWord nbits w)) with
  | .ok i => some i
  | .error _ => none

end Sys2Proof
end

