-- ==== Sys2Proof/Machine/State.lean ====
section
/-! DEFINITION. The state of the machine (spec/10_state.md R20: "the following, and nothing else"), the reasons a step can
stop, and the state after `Create` (R40). Plain data throughout. -/

namespace Sys2Proof.Machine

/-- The two fatal conditions (R250 to R252). -/
inductive Fatal where
  /-- 2nnn on a full stack (R251). -/
  | stackOverflow
  /-- 00EE on an empty stack (R252). -/
  | stackUnderflow
  deriving DecidableEq, Repr

/-- One unrecognized-opcode report: the address the word was fetched from and the word (R258, D18). -/
structure Report where
  pc   : Word
  word : Word
  deriving DecidableEq, Repr

/-- Main memory, as the list of the bytes that differ from the reset contents (R27, R60; canonical form `Memory.wf`). -/
abbrev Memory := List Host.Cell

/-- The framebuffer: 32 rows of 64 pixels, `true` a lit pixel (R28; the layout is not architectural, D26, log entry 6). -/
abbrev Framebuffer := Vector (Vector Bool 64) 32

/-- All the machine holds. -/
structure State where
  /-- `V0 .. VF` (R21, R22). -/
  v       : Vector Byte 16
  /-- `I`, the index register (R23). -/
  i       : Word
  /-- `PC`, the program counter (R24). -/
  pc      : Word
  /-- `SP`, the stack depth, 0 to 16 (R25, D7). -/
  sp      : Fin 17
  /-- `STACK`, a storage of its own (R26, R77). -/
  stack   : Vector Word 16
  /-- `MEM` (R27, R60). -/
  mem     : Memory
  /-- `FB` (R28). -/
  fb      : Framebuffer
  /-- `DT`, the delay timer (R29). -/
  dt      : Byte
  /-- `ST`, the sound timer (R30). -/
  st      : Byte
  /-- `K`, the key latches, `true` a pressed key (R31). -/
  keys    : Vector Bool 16
  /-- `RD`, the redraw flag (R32). -/
  rd      : Bool
  /-- `HALT`, the fatal-condition latch (R33, D8). -/
  halt    : Option Fatal
  /-- The model's own: the parameters `FONT_BASE` and `FONT_TABLE` (R6), which nothing changes (log entry 1). -/
  font    : Font
  /-- The model's own: the byte on the `rnd` input (R120, R274; log entry 3). -/
  rnd     : Byte
  /-- The model's own: how many bytes of the free stream the `rnd` input has shown (log entry 3). -/
  draws   : Nat
  /-- The model's own: the reports emitted so far, newest first (R34(b), R258; log entry 4). -/
  reports : List Report
  deriving DecidableEq, Repr

/-- Why a step can stop with a fault. -/
inductive Fault where
  /-- Raised by `Machine.cycle` and nothing else, on a machine whose `HALT` is not `None`: `Cycle` changes no state and
  returns `Err(HALT)` (R121), and "a model should treat reaching it as a fault of the run" (R255, U16). Safe: the machine
  does nothing there, so no behaviour is left out (log entry 5). -/
  | halted (e : Fatal)
  deriving DecidableEq, Repr

/-- Why a step can be refused. -/
inductive Refusal where
  /-- Raised by an arm of `Machine.exec` whose instruction has no meaning yet; no arm is left that raises it. Safe. -/
  | notModelled (mnemonic : String)
  deriving DecidableEq, Repr

/-- The outcome of executing one instruction. -/
abbrev Result := Host.Outcome State Fault Refusal

/-- The state after `Create` (R40, R290): everything zero but `PC = 0x0200` and the font, which unlisted memory reads as
(R41, R42). The model's own fields hold no chosen number: the font and the first random byte are uninterpreted constants
(log entries 1 and 3), and no report has been emitted. -/
def State.reset : State where
  v       := Vector.replicate 16 0
  i       := 0
  pc      := BitVec.ofNat 16 Config.progBase
  sp      := 0
  stack   := Vector.replicate 16 0
  mem     := []
  fb      := Vector.replicate 32 (Vector.replicate 64 false)
  dt      := 0
  st      := 0
  keys    := Vector.replicate 16 false
  rd      := false
  halt    := none
  font    := Config.font
  rnd     := Config.randomByte 0
  draws   := 1
  reports := []

end Sys2Proof.Machine
end

