-- ==== Sys2Proof/Machine/Ops.lean ====
section
/-! DEFINITION. The named operations over memory, registers, stack and control (spec/00_scope.md R10, spec/20_memory.md),
the entry into the halt (spec/60_exceptions.md R254), and the timer tick (spec/40_cycle_and_dispatch.md R127). -/

namespace Sys2Proof.Machine

/-! ### Memory -/

/-- `A12`: the 12-bit address the memory port sees (R10, R63, D4). -/
def a12 (a : Nat) : Nat := a % Config.memSize

/-- What address `a` reads as while nothing has been written there: the contents after `Create`, a font byte at
`FONT_BASE .. FONT_BASE + 79` and 0 elsewhere (R40, R41, R42). The font lies below `0x200` whatever its base. -/
def resetByte (f : Font) (a : Nat) : Byte :=
  if Config.progBase ≤ a then 0
  else if h : f.base.val ≤ a ∧ a < f.base.val + 80 then f.table[a - f.base.val]'(by omega) else 0

/-- The canonical form of a memory: addresses strictly rising and within the 4096 of R60, no entry equal to what its
address reads as unlisted. -/
abbrev Memory.wf (f : Font) (m : Memory) : Prop :=
  m.Pairwise (fun c d => c.1 < d.1) ∧ ∀ c ∈ m, c.1 < 4096 ∧ c.2 ≠ resetByte f c.1

/-- The byte at address `a` (R10 `MEM[a]`). -/
def Memory.read (f : Font) (m : Memory) (a : Nat) : Byte :=
  match m.find? (fun c => c.1 == a) with
  | some c => c.2
  | none => resetByte f a

/-- Put an entry before the first one with a larger address. -/
def Memory.insert (c : Host.Cell) : Memory → Memory
  | [] => [c]
  | d :: m => if c.1 < d.1 then c :: d :: m else d :: Memory.insert c m

/-- Store byte `b` at address `a`; an address that gets its reset byte back is unlisted again. -/
def Memory.write (f : Font) (m : Memory) (a : Nat) (b : Byte) : Memory :=
  if b = resetByte f a then m.filter (fun c => c.1 != a)
  else Memory.insert (a, b) (m.filter (fun c => c.1 != a))

/-- Give `0x000 .. 0x1FF` their reset contents back (R292): those addresses are unlisted again. -/
def Memory.repairReserved (m : Memory) : Memory := m.filter (fun c => Config.progBase ≤ c.1)

/-- `MemRead(a, 1)` (R10, R63). -/
def State.readByte (s : State) (a : Nat) : Byte := Memory.read s.font s.mem (a12 a)

/-- `MemWrite(a, 1, b)` (R10, R63). -/
def State.writeByte (s : State) (a : Nat) (b : Byte) : State :=
  { s with mem := Memory.write s.font s.mem (a12 a) b }

/-- `MemRead(a + k, 1)` for `k` in `0 .. n - 1` (R65, R67). -/
def State.readBytes (s : State) (a n : Nat) : List Byte := (List.range n).map (fun k => s.readByte (a + k))

/-- `MemWrite(a + k, 1, bytes[k])` for each byte in turn (R65, R67). -/
def State.writeBytes (s : State) (a : Nat) : List Byte → State
  | [] => s
  | b :: bytes => (s.writeByte a b).writeBytes (a + 1) bytes

/-! ### Registers -/

/-- `V[x]` read (R10, R21): no register is hard-wired. -/
def State.getV (s : State) (x : Nibble) : Byte := s.v[x.toNat]'(x.isLt)

/-- `V[x] <- b` (R10, R21). -/
def State.setV (s : State) (x : Nibble) (b : Byte) : State := { s with v := s.v.set x.toNat b x.isLt }

/-- `VF`, register 15 (R21, R22). -/
def vf : Nibble := 0xF

/-- `I <- w` (R23). -/
def State.setI (s : State) (w : Word) : State := { s with i := w }

/-- `DT <- b` (R29). -/
def State.setDt (s : State) (b : Byte) : State := { s with dt := b }

/-- `ST <- b` (R30). -/
def State.setSt (s : State) (b : Byte) : State := { s with st := b }

/-! ### Control -/

/-- `PC <- PC + 2`, modulo `2^16` (R24, R125). -/
def State.advance (s : State) : State := { s with pc := s.pc + 2 }

/-- `PC <- PC + 4` if the condition holds, else `PC <- PC + 2` (R125). -/
def State.skipIf (s : State) (c : Bool) : State := { s with pc := if c then s.pc + 4 else s.pc + 2 }

/-- `PC <- target` (R125). -/
def State.jumpTo (s : State) (target : Word) : State := { s with pc := target }

/-- Push a return address: `STACK[SP] <- w; SP <- SP + 1`, or nothing when `SP = 16` (R25, R142). -/
def State.push (s : State) (w : Word) : Option State :=
  if h : s.sp.val < 16 then
    some { s with stack := s.stack.set s.sp.val w h, sp := ⟨s.sp.val + 1, by omega⟩ }
  else none

/-- Pop a return address: `SP <- SP - 1`, then `STACK[SP]`, which is not erased; nothing when `SP = 0` (R25, R26, R140). -/
def State.pop (s : State) : Option (Word × State) :=
  if h : 0 < s.sp.val then
    some (s.stack[s.sp.val - 1]'(by omega), { s with sp := ⟨s.sp.val - 1, by omega⟩ })
  else none

/-- Taking a fatal condition: nothing is written but `HALT <- e` (R128, R254, D8). There is no handler, no vector and no
return: only `Create` and `Reset` clear `HALT` (R256). -/
def State.enterHalt (s : State) (e : Fatal) : State := { s with halt := some e }

/-! ### Framebuffer -/

/-- `FB[px, py]` (R28). -/
def Framebuffer.pixel (fb : Framebuffer) (px : Fin 64) (py : Fin 32) : Bool := fb[py.val][px.val]

/-- `FB[px, py] <- FB[px, py] ^ 1` (R211). -/
def Framebuffer.flip (fb : Framebuffer) (px : Fin 64) (py : Fin 32) : Framebuffer :=
  fb.set py.val (fb[py.val].set px.val (!fb[py.val][px.val]))

/-- All 2048 pixels 0 (R210). -/
def Framebuffer.clear : Framebuffer := Vector.replicate 32 (Vector.replicate 64 false)

/-! ### Timers, random input, report -/

/-- The timer tick: each timer is decremented if it is greater than 0 (R127, R265). -/
def State.tick (s : State) : State :=
  { s with dt := if 0 < s.dt then s.dt - 1 else s.dt, st := if 0 < s.st then s.st - 1 else s.st }

/-- The generator advances: the `rnd` input shows the next free byte (R171, R274, D17; log entry 3). -/
def State.drawNext (s : State) : State := { s with rnd := Config.randomByte s.draws, draws := s.draws + 1 }

/-- `report Unrecognized(PC, w); PC <- PC + 2` (R126, R258). -/
def State.reportUnrecognized (s : State) (w : Word) : State :=
  { s with reports := ⟨s.pc, w⟩ :: s.reports, pc := s.pc + 2 }

end Sys2Proof.Machine
end

