-- ==== Sys2Proof/Machine/Flags.lean ====
section
/-! DEFINITION. Every flag the spec gives: the machine has no flag register, and six instructions write `VF` to 0 or 1
(spec/10_state.md R22). -/

namespace Sys2Proof.Machine

/-- A flag as the byte written to `VF`: 1 or 0 (R22). -/
def flagByte (c : Bool) : Byte := if c then 1 else 0

/-- Carry of 8xy4: the unbounded sum exceeds 255 (R166, R172). -/
def carryOut (a b : Byte) : Bool := decide (255 < a.toNat + b.toNat)

/-- The flag of 8xy5 and 8xy7: the minuend is strictly greater than the subtrahend, unsigned (R167, R169, R172). -/
def greater (a b : Byte) : Bool := decide (b.toNat < a.toNat)

/-- The bit 8xy6 shifts out: old bit 0, as 0 or 1 (R168). -/
def bitOutRight (a : Byte) : Byte := a &&& 1

/-- The bit 8xyE shifts out: old bit 7, as 0 or 1 (R170). -/
def bitOutLeft (a : Byte) : Byte := a >>> 7

/-- A pixel is erased by a draw: the sprite bit is 1 and the pixel was 1 (R213). -/
def erased (spriteBit pixel : Bool) : Bool := spriteBit && pixel

end Sys2Proof.Machine
end

