-- ==== Sys2Proof/Machine/Operands.lean ====
section
/-! DEFINITION. Every operand form the spec gives: zero-extended `nnn`, the address `I + k`, the key selector, the glyph
address, the decimal digits, the register block, the sprite bytes, the keys pressed. -/

namespace Sys2Proof.Machine

/-- `zext_16(nnn)` (R92). -/
def zext16 (nnn : Addr12) : Word := nnn.setWidth 16

/-- `zext_16` of a byte (R147, R191). -/
def zextByte (b : Byte) : Word := b.setWidth 16

/-- A key index as the byte Fx0A writes (R233). -/
def keyByte (k : Nibble) : Byte := k.setWidth 8

/-- The only addressing mode, register `I` plus an offset, on unbounded integers (spec/43_index_and_memory.md, R63). -/
def State.indexAddr (s : State) (k : Nat) : Nat := s.i.toNat + k

/-- The key a register names: its low four bits (R230, D12). -/
def keyOf (b : Byte) : Nibble := b.setWidth 4

/-- `K[k]` (R31). -/
def State.keyDown (s : State) (k : Nibble) : Bool := s.keys[k.toNat]'(k.isLt)

/-- `(FONT_BASE + 5 * d) mod 2^16` for the whole byte `d` (R192, D16). -/
def glyphAddr (f : Font) (d : Byte) : Word := BitVec.ofNat 16 (f.base.val + Config.glyphBytes * d.toNat)

/-- The three decimal digits of a byte: hundreds, tens, ones (R193). -/
def digits (b : Byte) : List Byte :=
  [BitVec.ofNat 8 (b.toNat / 100), BitVec.ofNat 8 (b.toNat / 10 % 10), BitVec.ofNat 8 (b.toNat % 10)]

/-- The registers `V[0] .. V[x]`, in that order (R194). -/
def State.regBlock (s : State) (x : Nibble) : List Byte :=
  (List.range (x.toNat + 1)).map (fun k => s.getV (BitVec.ofNat 4 k))

/-- `V[k] <- bytes[k]` for each byte in turn, from register `k` on (R195). -/
def State.setRegs (s : State) (k : Nat) : List Byte → State
  | [] => s
  | b :: bytes => (s.setV (BitVec.ofNat 4 k) b).setRegs (k + 1) bytes

/-- Column `col` of a sprite row: bit 7 is column 0, the leftmost pixel (R212, D10). -/
def spriteBit (b : Byte) (col : Nat) : Bool := b.getLsbD (7 - col)

/-- The column a sprite column lands on: `(x0 + col) mod 64` (R212). -/
def spriteCol (x0 : Byte) (col : Nat) : Fin 64 := Fin.ofNat 64 (x0.toNat + col)

/-- The row a sprite row lands on: `(y0 + row) mod 32` (R212). -/
def spriteRow (y0 : Byte) (row : Nat) : Fin 32 := Fin.ofNat 32 (y0.toNat + row)

/-- The pressed keys, in ascending order (R233 "scan keys"). -/
def State.pressedKeys (s : State) : List Nibble :=
  ((List.range 16).map (fun k => BitVec.ofNat 4 k)).filter s.keyDown

/-- `KEYWAIT_PICK`: none when no key is pressed, the key when one is, one of them when several are; which one is not
known (R233(d), D13, log entry 2). -/
def keywaitPick : List Nibble → Option Nibble
  | [] => none
  | [k] => some k
  | k :: l :: ks => some ((k :: l :: ks).getD (Config.keyPick (k :: l :: ks) % (k :: l :: ks).length) k)

end Sys2Proof.Machine
end

