-- ==== Sys2Proof/Machine/Alu.lean ====
section
/-! DEFINITION. Register load, arithmetic, logic, shifts, random (spec/42_load_and_alu.md). Steps are performed in the
order the spec writes them, each reading the registers the previous step left (spec/00_scope.md R11, D1); that decides
the forms with register 15 as an operand. -/

namespace Sys2Proof.Machine

/-- 6xkk `LD Vx, kk` (R160). -/
def execLdImm (x : Nibble) (kk : Byte) (s : State) : Result := .next (s.setV x kk).advance

/-- 7xkk `ADD Vx, kk` (R161): no flag. -/
def execAddImm (x : Nibble) (kk : Byte) (s : State) : Result := .next (s.setV x (s.getV x + kk)).advance

/-- 8xy0 `LD Vx, Vy` (R162). -/
def execLdReg (x y : Nibble) (s : State) : Result := .next (s.setV x (s.getV y)).advance

/-- 8xy1 `OR Vx, Vy` (R163): no flag. -/
def execOrReg (x y : Nibble) (s : State) : Result := .next (s.setV x (s.getV x ||| s.getV y)).advance

/-- 8xy2 `AND Vx, Vy` (R164): no flag. -/
def execAndReg (x y : Nibble) (s : State) : Result := .next (s.setV x (s.getV x &&& s.getV y)).advance

/-- 8xy3 `XOR Vx, Vy` (R165): no flag. -/
def execXorReg (x y : Nibble) (s : State) : Result := .next (s.setV x (s.getV x ^^^ s.getV y)).advance

/-- 8xy4 `ADD Vx, Vy` (R166): the sum is formed first, then `VF` and then `Vx` are written. -/
def execAddReg (x y : Nibble) (s : State) : Result :=
  let sum := s.getV x + s.getV y
  let s1 := s.setV vf (flagByte (carryOut (s.getV x) (s.getV y)))
  .next (s1.setV x sum).advance

/-- 8xy5 `SUB Vx, Vy` (R167): the difference reads the registers after the flag is written. -/
def execSub (x y : Nibble) (s : State) : Result :=
  let s1 := s.setV vf (flagByte (greater (s.getV x) (s.getV y)))
  .next (s1.setV x (s1.getV x - s1.getV y)).advance

/-- 8xy6 `SHR Vx` (R168): the shift reads the register after the flag is written; `Vy` has no part in it (D29). -/
def execShr (x : Nibble) (s : State) : Result :=
  let s1 := s.setV vf (bitOutRight (s.getV x))
  .next (s1.setV x (s1.getV x >>> 1)).advance

/-- 8xy7 `SUBN Vx, Vy` (R169): the difference reads the registers after the flag is written. -/
def execSubn (x y : Nibble) (s : State) : Result :=
  let s1 := s.setV vf (flagByte (greater (s.getV y) (s.getV x)))
  .next (s1.setV x (s1.getV y - s1.getV x)).advance

/-- 8xyE `SHL Vx` (R170): the shift reads the register after the flag is written; `Vy` has no part in it (D29). -/
def execShl (x : Nibble) (s : State) : Result :=
  let s1 := s.setV vf (bitOutLeft (s.getV x))
  .next (s1.setV x (s1.getV x <<< 1)).advance

/-- Cxkk `RND Vx, kk` (R171): the byte on the `rnd` input, masked; the generator advances once (R274). -/
def execRnd (x : Nibble) (kk : Byte) (s : State) : Result := .next ((s.setV x (s.rnd &&& kk)).drawNext).advance

end Sys2Proof.Machine
end

