-- ==== Sys2Proof/Machine/Control.lean ====
section
/-! DEFINITION. Control transfer (spec/41_control_transfer.md): return, jump, call, skips, indexed jump. -/

namespace Sys2Proof.Machine

/-- 00EE `RET` (R140): the popped address itself becomes `PC`; an empty stack halts the machine (R252). -/
def execRet (s : State) : Result :=
  match s.pop with
  | some (w, t) => .next (t.jumpTo w)
  | none => .next (s.enterHalt .stackUnderflow)

/-- 1nnn `JP nnn` (R141). -/
def execJp (nnn : Addr12) (s : State) : Result := .next (s.jumpTo (zext16 nnn))

/-- 2nnn `CALL nnn` (R142): pushes `PC + 2`; a full stack halts the machine (R251). -/
def execCall (nnn : Addr12) (s : State) : Result :=
  match s.push (s.pc + 2) with
  | some t => .next (t.jumpTo (zext16 nnn))
  | none => .next (s.enterHalt .stackOverflow)

/-- 3xkk `SE Vx, kk` (R143). -/
def execSeImm (x : Nibble) (kk : Byte) (s : State) : Result := .next (s.skipIf (s.getV x == kk))

/-- 4xkk `SNE Vx, kk` (R144). -/
def execSneImm (x : Nibble) (kk : Byte) (s : State) : Result := .next (s.skipIf (s.getV x != kk))

/-- 5xy0 `SE Vx, Vy` (R145). -/
def execSeReg (x y : Nibble) (s : State) : Result := .next (s.skipIf (s.getV x == s.getV y))

/-- 9xy0 `SNE Vx, Vy` (R146). -/
def execSneReg (x y : Nibble) (s : State) : Result := .next (s.skipIf (s.getV x != s.getV y))

/-- Bnnn `JP V0, nnn` (R147): a 16-bit sum, not reduced to 12 bits. -/
def execJpV0 (nnn : Addr12) (s : State) : Result := .next (s.jumpTo (zext16 nnn + zextByte (s.getV 0)))

end Sys2Proof.Machine
end

