-- ==== Sys2Proof/Machine/Display.lean ====
section
/-! DEFINITION. The framebuffer controller (spec/44_display.md): clear screen, and draw a sprite by XOR with collision.
The loops are those of R211's pseudocode. -/

namespace Sys2Proof.Machine

/-- What a draw works on: the framebuffer and `hit` (R211). -/
structure Canvas where
  fb  : Framebuffer
  hit : Bool
  deriving DecidableEq, Repr

/-- One sprite bit on its target pixel: `hit` records an erased pixel (R213), and a set bit flips the pixel (R211). -/
def plot (c : Canvas) (px : Fin 64) (py : Fin 32) (bit : Bool) : Canvas :=
  { fb := if bit then c.fb.flip px py else c.fb, hit := c.hit || erased bit (c.fb.pixel px py) }

/-- One row byte of the sprite, columns 0 to 7, on framebuffer row `py` (R211, R212). -/
def drawRow (x0 : Byte) (py : Fin 32) (b : Byte) (c : Canvas) : Canvas :=
  (List.range 8).foldl (fun c col => plot c (spriteCol x0 col) py (spriteBit b col)) c

/-- The rows of the sprite, from row number `row` on (R211, R212). -/
def drawRows (x0 y0 : Byte) (row : Nat) : List Byte → Canvas → Canvas
  | [], c => c
  | b :: bytes, c => drawRows x0 y0 (row + 1) bytes (drawRow x0 (spriteRow y0 row) b c)

/-- 00E0 `CLS` (R210): `RD` is set whether or not a pixel was lit (C5). -/
def execCls (s : State) : Result := .next { s with fb := Framebuffer.clear, rd := true }.advance

/-- Dxyn `DRW Vx, Vy, n` (R211): the coordinates are read before `VF` is written (D11); `RD` is set on every execution
(C5). -/
def execDrw (x y n : Nibble) (s : State) : Result :=
  let c := drawRows (s.getV x) (s.getV y) 0 (s.readBytes (s.indexAddr 0) n.toNat) ⟨s.fb, false⟩
  .next ({ s with fb := c.fb, rd := true }.setV vf (flagByte c.hit)).advance

end Sys2Proof.Machine
end

