-- ==== Sys2Proof/Machine/Index.lean ====
section
/-! DEFINITION. Index register, BCD, register store and load (spec/43_index_and_memory.md). No instruction modifies its
base register (R12). -/

namespace Sys2Proof.Machine

/-- Annn `LD I, nnn` (R190). -/
def execLdI (nnn : Addr12) (s : State) : Result := .next (s.setI (zext16 nnn)).advance

/-- Fx1E `ADD I, Vx` (R191): no flag, modulo `2^16`. -/
def execAddI (x : Nibble) (s : State) : Result := .next (s.setI (s.i + zextByte (s.getV x))).advance

/-- Fx29 `LD F, Vx` (R192): the formula on the whole byte. -/
def execLdF (x : Nibble) (s : State) : Result := .next (s.setI (glyphAddr s.font (s.getV x))).advance

/-- Fx33 `LD B, Vx` (R193). -/
def execLdB (x : Nibble) (s : State) : Result :=
  .next (s.writeBytes (s.indexAddr 0) (digits (s.getV x))).advance

/-- Fx55 `LD [I], Vx` (R194). -/
def execLdMemVx (x : Nibble) (s : State) : Result :=
  .next (s.writeBytes (s.indexAddr 0) (s.regBlock x)).advance

/-- Fx65 `LD Vx, [I]` (R195). No register is an address operand, so reading all the bytes first changes nothing. -/
def execLdVxMem (x : Nibble) (s : State) : Result :=
  .next (s.setRegs 0 (s.readBytes (s.indexAddr 0) (x.toNat + 1))).advance

end Sys2Proof.Machine
end

