-- ==== Sys2Proof/Machine/KeyTimer.lean ====
section
/-! DEFINITION. Keypad skips, key wait, timer access (spec/45_keypad_and_timers.md). -/

namespace Sys2Proof.Machine

/-- Ex9E `SKP Vx` (R230): the level of the key named by the low four bits of `Vx` (D12). -/
def execSkp (x : Nibble) (s : State) : Result := .next (s.skipIf (s.keyDown (keyOf (s.getV x))))

/-- ExA1 `SKNP Vx` (R231). -/
def execSknp (x : Nibble) (s : State) : Result := .next (s.skipIf (!s.keyDown (keyOf (s.getV x))))

/-- Fx07 `LD Vx, DT` (R232). -/
def execLdVxDt (x : Nibble) (s : State) : Result := .next (s.setV x s.dt).advance

/-- Fx0A `LD Vx, K` (R233): with no key pressed nothing is written and `PC` stays; the wait is this same instruction again
in the next cycle. -/
def execLdVxK (x : Nibble) (s : State) : Result :=
  match keywaitPick s.pressedKeys with
  | some k => .next (s.setV x (keyByte k)).advance
  | none => .next s

/-- Fx15 `LD DT, Vx` (R234). -/
def execLdDtVx (x : Nibble) (s : State) : Result := .next (s.setDt (s.getV x)).advance

/-- Fx18 `LD ST, Vx` (R235). -/
def execLdStVx (x : Nibble) (s : State) : Result := .next (s.setSt (s.getV x)).advance

end Sys2Proof.Machine
end

