-- ==== Sys2Proof/Machine/Cycle.lean ====
section
/-! DEFINITION. The one transition `Cycle` (spec/40_cycle_and_dispatch.md R120 to R130): halted check, fetch, decode,
execute, tick; and placing an instruction where the next fetch reads. -/

namespace Sys2Proof.Machine

/-- Fetch: the two bytes at `PC` and `PC + 1`, each address modulo 4096, high byte first (R122, R63, R64). -/
def State.fetchWord (s : State) : Word := wordOfBytes (s.readByte s.pc.toNat) (s.readByte (s.pc.toNat + 1))

/-- Decode and execute the fetched word; an unrecognized word is reported and skipped (R123, R124, R126). -/
def runWord (w : Word) (s : State) : Result :=
  match decode w with
  | .ok i => exec i s
  | .error _ => .next (s.reportUnrecognized w)

/-- The end of a cycle: the timer tick, unless the instruction raised a fatal condition (R127, R128). -/
def endCycle (s : State) : State :=
  match s.halt with
  | none => s.tick
  | some _ => s

/-- `Cycle` (R130). On a halted machine it stops with a fault: no state is changed (R121, R255; log entry 5). The random
input is the state's `rnd`. -/
def cycle (s : State) : Result :=
  match s.halt with
  | some e => .fault (.halted e)
  | none =>
    match runWord s.fetchWord s with
    | .next t => .next (endCycle t)
    | .fault r => .fault r
    | .refused r => .refused r

/-- `Cycle(rnd)` (R120): a cycle whose random input the caller gives. -/
def cycleWith (r : Byte) (s : State) : Result := cycle { s with rnd := r }

/-- What `Cycle` returns: `none` for `Ok`, the condition for `Err(e)` (R120, R121, R128). -/
def cycleError (s : State) : Option Fatal :=
  match cycle s with
  | .next t => t.halt
  | .fault (.halted e) => some e
  | .refused _ => none

/-- Store a word where the next fetch reads, high byte first (R64, R122), and clear the halt latch, without which no fetch
happens (R121). -/
def State.placeWord (s : State) (w : Word) : State :=
  { s with halt := none }.writeBytes s.pc.toNat [highByte w, lowByte w]

end Sys2Proof.Machine
end

