-- ==== Sys2Proof/Machine/Bridge.lean ====
section
/-! DEFINITION. The host operations (spec/60_exceptions.md R266 to R276, spec/70_reset_and_hazards.md R290 to R294): each
one atomic transition, admitted only between two cycles (spec/00_scope.md R16, R273). The machine's own step is in
Step.lean; nothing here is part of it. -/

namespace Sys2Proof.Machine

/-- `Create` (R290): the state of R40. What is outside the block, the generator and the reports already emitted, and the
machine's font, are as they were (log entry 8). -/
def hostCreate (s : State) : State :=
  { State.reset with font := s.font, rnd := s.rnd, draws := s.draws, reports := s.reports }

/-- `Reset` (R292, D20): as `Create`, but `MEM[0x200 .. 0xFFF]` keeps its bytes; the reserved area gets its reset contents
back. -/
def hostReset (s : State) : State := { hostCreate s with mem := Memory.repairReserved s.mem }

/-- `LoadProgram(bytes)` (R293, R294, D21): refused with `SizeExceeded`, `none`, when longer than `ROM_MAX`. -/
def hostLoadProgram (bytes : List Byte) (s : State) : Option State :=
  if bytes.length ≤ Config.romMax then some (s.writeBytes Config.progBase bytes) else none

/-- `SetKeys(k[0..15])` (R269): all 16 latches together. -/
def hostSetKeys (ks : Vector Bool 16) (s : State) : State := { s with keys := ks }

/-- `FramebufferSnapshot` (R270): the grid, read-only. -/
def hostFramebufferSnapshot (s : State) : Framebuffer := s.fb

/-- `ConsumeRedrawFlag` (R271): the flag, and the state with the flag cleared. -/
def hostConsumeRedrawFlag (s : State) : Bool × State := (s.rd, { s with rd := false })

/-- `TimerTick` (R267, D22): the tick alone, nothing on a halted machine (R276). -/
def hostTimerTick (s : State) : State := endCycle s

/-- The output `sound_active` (R266, D23). -/
def State.soundActive (s : State) : Bool := s.st != 0

/-- The output `err`, the code of `HALT` (R253, D9): 3 is never produced. -/
def State.errCode (s : State) : BitVec 2 :=
  match s.halt with
  | none => 0
  | some .stackOverflow => 1
  | some .stackUnderflow => 2

/-- The host operations (R268; `Cycle` apart). -/
inductive HostOp where
  | create
  | reset
  | loadProgram (bytes : List Byte)
  | setKeys (ks : Vector Bool 16)
  | framebufferSnapshot
  | consumeRedrawFlag
  | timerTick
  deriving DecidableEq, Repr

/-- What a host operation answers. -/
inductive HostReply where
  /-- The operation is done and returns no value. -/
  | ok
  /-- `LoadProgram` refused the program (R294). -/
  | sizeExceeded
  /-- The grid of `FramebufferSnapshot` (R270). -/
  | grid (fb : Framebuffer)
  /-- The flag of `ConsumeRedrawFlag` (R271). -/
  | flag (b : Bool)
  deriving DecidableEq, Repr

/-- One host operation: its answer and the state after it; a refused load writes nothing (R259, R294). -/
def hostApply (o : HostOp) (s : State) : HostReply × State :=
  match o with
  | .create => (.ok, hostCreate s)
  | .reset => (.ok, hostReset s)
  | .loadProgram bytes =>
    match hostLoadProgram bytes s with
    | some t => (.ok, t)
    | none => (.sizeExceeded, s)
  | .setKeys ks => (.ok, hostSetKeys ks s)
  | .framebufferSnapshot => (.grid (hostFramebufferSnapshot s), s)
  | .consumeRedrawFlag => (.flag (hostConsumeRedrawFlag s).1, (hostConsumeRedrawFlag s).2)
  | .timerTick => (.ok, hostTimerTick s)

/-- What can happen next (R131, R273): a cycle whose random input is the byte the generator presents, or a host
operation. -/
inductive Move where
  | cycle (rnd : Byte)
  | host (o : HostOp)
  deriving DecidableEq, Repr

/-- The state after a move; a cycle of a halted machine leaves the machine as it is (R121). -/
def applyMove (m : Move) (s : State) : State :=
  match m with
  | .cycle r =>
    match cycleWith r s with
    | .next t => t
    | .fault _ => s
    | .refused _ => s
  | .host o => (hostApply o s).2

end Sys2Proof.Machine
end

