-- ==== Sys2Proof/Safety.lean ====
section
/-! DEFINITION. The terms claims about the machine use: what a safe state is, the machine's invariant, the parts of the
state a frame names, and three tables of the spec in closed form (the PC rule R125, the write sets of R20 and R12, the
sprite geometry R212). No definition of the machine uses anything here. -/

namespace Sys2Proof.Machine

/-! ### Safe runs -/

/-- The machine is running, not halted (R33). A run is safe while it is. -/
def State.running (s : State) : Bool := s.halt.isNone

/-- A program "has finished": `HALT = None`, the word at `PC` jumps to itself, and `PC <= 0xFFF` (R309, D28: a convention
of the spec). -/
def State.finished (s : State) : Bool :=
  s.running && s.fetchWord == (0x1000 ||| s.pc) && decide (s.pc.toNat ≤ 0xFFF)

/-! ### The invariant -/

/-- The halt latch is precise (R254): a machine halted by an overflow still has the full stack the call found, one halted
by an underflow the empty stack the return found. -/
def State.haltPrecise (s : State) : Prop :=
  (s.halt = some .stackOverflow → s.sp.val = 16) ∧ (s.halt = some .stackUnderflow → s.sp.val = 0)

/-- Every report is about an unrecognized word (R99, R258). -/
def State.reportsGenuine (s : State) : Prop := ∀ r ∈ s.reports, decode r.word = .error (.unrecognized r.word)

/-- What every reachable state satisfies: memory is canonical, the halt latch precise, the reports genuine. -/
structure State.Inv (s : State) : Prop where
  memory  : Memory.wf s.font s.mem
  halt    : s.haltPrecise
  reports : s.reportsGenuine

/-! ### Frames -/

/-- The parts of the state besides the general registers and `PC` (R20). -/
inductive Part where
  | index | memory | pixels | redraw | stack | delay | sound | keys | halt | font | random | reports
  deriving DecidableEq, Repr

/-- A part reads the same in two states: memory byte by byte, the framebuffer pixel by pixel. -/
def Part.same (s t : State) : Part → Prop
  | .index => t.i = s.i
  | .memory => ∀ a, t.readByte a = s.readByte a
  | .pixels => ∀ px py, t.fb.pixel px py = s.fb.pixel px py
  | .redraw => t.rd = s.rd
  | .stack => t.sp = s.sp ∧ t.stack = s.stack
  | .delay => t.dt = s.dt
  | .sound => t.st = s.st
  | .keys => t.keys = s.keys
  | .halt => t.halt = s.halt
  | .font => t.font = s.font
  | .random => t.rnd = s.rnd ∧ t.draws = s.draws
  | .reports => t.reports = s.reports

/-- From `s` to `t` only the registers `regs`, the parts `parts` and `PC` may change. -/
def Framed (regs : List Nibble) (parts : List Part) (s t : State) : Prop :=
  (∀ r, r ∉ regs → t.getV r = s.getV r) ∧ ∀ p, p ∉ parts → Part.same s t p

/-- Every byte outside the `n` bytes stored from address `a` on reads as before (each address modulo 4096, R63). -/
def UntouchedOutside (a n : Nat) (s t : State) : Prop :=
  ∀ b, (∀ k, k < n → a12 b ≠ a12 (a + k)) → t.readByte b = s.readByte b

/-! ### The write sets (R20 "written by", R12) -/

/-- The registers an instruction may write: its destination, `VF` for the six flag writers, `V0 .. Vx` for Fx65. -/
def writtenRegs : Instr → List Nibble
  | .ldImm x _ | .addImm x _ | .ldReg x _ | .orReg x _ | .andReg x _ | .xorReg x _ | .rnd x _ | .ldVxDt x | .ldVxK x => [x]
  | .addReg x _ | .sub x _ | .shr x | .subn x _ | .shl x => [vf, x]
  | .drw _ _ _ => [vf]
  | .ldVxMem x => (List.range (x.toNat + 1)).map (fun k => BitVec.ofNat 4 k)
  | .cls | .ret | .jp _ | .call _ | .seImm _ _ | .sneImm _ _ | .seReg _ _ | .sneReg _ _ | .ldI _ | .jpV0 _ | .skp _
  | .sknp _ | .ldDtVx _ | .ldStVx _ | .addI _ | .ldF _ | .ldB _ | .ldMemVx _ => []

/-- The other parts of the state an instruction may write. -/
def writtenParts : Instr → List Part
  | .cls | .drw _ _ _ => [.pixels, .redraw]
  | .ret | .call _ => [.stack, .halt]
  | .ldI _ | .addI _ | .ldF _ => [.index]
  | .ldB _ | .ldMemVx _ => [.memory]
  | .ldDtVx _ => [.delay]
  | .ldStVx _ => [.sound]
  | .rnd _ _ => [.random]
  | .jp _ | .seImm _ _ | .sneImm _ _ | .seReg _ _ | .sneReg _ _ | .jpV0 _ | .skp _ | .sknp _ | .ldImm _ _ | .addImm _ _
  | .ldReg _ _ | .orReg _ _ | .andReg _ _ | .xorReg _ _ | .addReg _ _ | .sub _ _ | .shr _ | .subn _ _ | .shl _
  | .ldVxDt _ | .ldVxK _ | .ldVxMem _ => []

/-! ### The PC rule (R125) -/

/-- `PC` after an instruction, as R125's table gives it. -/
def pcAfter (i : Instr) (s : State) : Word :=
  match i with
  | .jp nnn => BitVec.ofNat 16 nnn.toNat
  | .call nnn => if s.sp.val = 16 then s.pc else BitVec.ofNat 16 nnn.toNat
  | .jpV0 nnn => BitVec.ofNat 16 (nnn.toNat + (s.getV 0).toNat)
  | .ret => if h : s.sp.val = 0 then s.pc else s.stack[s.sp.val - 1]'(by omega)
  | .seImm x kk => if s.getV x = kk then s.pc + 4 else s.pc + 2
  | .sneImm x kk => if s.getV x ≠ kk then s.pc + 4 else s.pc + 2
  | .seReg x y => if s.getV x = s.getV y then s.pc + 4 else s.pc + 2
  | .sneReg x y => if s.getV x ≠ s.getV y then s.pc + 4 else s.pc + 2
  | .skp x => if s.keyDown (keyOf (s.getV x)) = true then s.pc + 4 else s.pc + 2
  | .sknp x => if s.keyDown (keyOf (s.getV x)) = false then s.pc + 4 else s.pc + 2
  | .ldVxK _ => if s.pressedKeys = [] then s.pc else s.pc + 2
  | .cls | .ldImm _ _ | .addImm _ _ | .ldReg _ _ | .orReg _ _ | .andReg _ _ | .xorReg _ _ | .addReg _ _ | .sub _ _
  | .shr _ | .subn _ _ | .shl _ | .ldI _ | .rnd _ _ | .drw _ _ _ | .ldVxDt _ | .ldDtVx _ | .ldStVx _ | .addI _ | .ldF _
  | .ldB _ | .ldMemVx _ | .ldVxMem _ => s.pc + 2

/-! ### The flag of the subtractions (R167, R169) -/

/-- 1 if the minuend is strictly greater than the subtrahend, else 0. -/
def greaterBit (a b : Byte) : Nat := if b.toNat < a.toNat then 1 else 0

/-! ### Sprite geometry (R212) -/

/-- A set bit of the sprite that `Dxyn` draws in state `s` lands on pixel `(px, py)`: column `col` of row `row`, bit
`7 - col` of the byte at `I + row` (R212). -/
def SpriteCovers (s : State) (x y n : Nibble) (px : Fin 64) (py : Fin 32) : Prop :=
  ∃ row col : Nat, row < n.toNat ∧ col < 8 ∧ px.val = ((s.getV x).toNat + col) % 64 ∧
    py.val = ((s.getV y).toNat + row) % 32 ∧ (s.readByte (s.i.toNat + row)).getLsbD (7 - col) = true

/-! ### Creation -/

/-- The registers, latches, stack, timers and screen of R40, and `PC` at the entry point. -/
def Zeroed (t : State) : Prop :=
  (∀ r, t.getV r = 0) ∧ t.i = 0 ∧ t.pc.toNat = 0x200 ∧ t.sp.val = 0 ∧ (∀ k (h : k < 16), t.stack[k] = 0) ∧
    (∀ px py, t.fb.pixel px py = false) ∧ t.dt = 0 ∧ t.st = 0 ∧ (∀ k, t.keyDown k = false) ∧ t.rd = false ∧ t.halt = none

/-- `MEM[FONT_BASE + j] = FONT_TABLE[j]` for the 80 font bytes, and 0 at every other address below `limit` (R40, R42,
R292). -/
def FontLoaded (limit : Nat) (t : State) : Prop :=
  (∀ j (h : j < 80), t.readByte (t.font.base.val + j) = t.font.table[j]) ∧
    ∀ a, a < limit → (a < t.font.base.val ∨ t.font.base.val + 80 ≤ a) → t.readByte a = 0

/-! ### Observers -/

/-- The state less what no instruction can read: the redraw flag, the sound timer and the report log (R32, R44, R34(b)). -/
def State.eraseObservers (s : State) : State := { s with rd := false, st := 0, reports := [] }

/-- An outcome seen through a function of its next state. -/
def mapNext (f : State → State) : Result → Result
  | .next t => .next (f t)
  | .fault r => .fault r
  | .refused r => .refused r

end Sys2Proof.Machine
end

