-- ==== Sys2Proof/Certificates/Slice0/Obligations.lean ====
section
/-! DEFINITION. The statements about the machine, each from the numbered rules of spec/. Where a statement rests on a
decision the spec marks as its own (D<n> of spec/92_eei_decisions.md) or on a choice of the model, its docstring says so
and names the log entry. -/

open Sys2Proof Sys2Proof.Machine

/-! ### Encoding (spec/00_scope.md R9, spec/30_encoding.md) -/

/-- The six fields of a word, and how they overlap (R9). -/
def Obligations.FieldsAreCutFromTheWord : Prop :=
  ∀ w : Word,
    (fieldsOf w).fam.toNat = w.toNat / 4096 ∧ (fieldsOf w).x.toNat = w.toNat / 256 % 16 ∧
    (fieldsOf w).y.toNat = w.toNat / 16 % 16 ∧ (fieldsOf w).n.toNat = w.toNat % 16 ∧
    (fieldsOf w).kk.toNat = w.toNat % 256 ∧ (fieldsOf w).nnn.toNat = w.toNat % 4096 ∧
    (fieldsOf w).kk.toNat = (fieldsOf w).y.toNat * 16 + (fieldsOf w).n.toNat ∧
    (fieldsOf w).nnn.toNat = (fieldsOf w).x.toNat * 256 + (fieldsOf w).kk.toNat

/-- Words of the spec's vectors decode to the instructions they stand for (spec/95_test_vectors.md, at least one per
family). That 0x0123 is unrecognized (UNR-1) rests on decisions D30 and D19, and so do the sub-opcode fields compared (log
entry 18). -/
def Obligations.SpecWordsDecode : Prop :=
  decode 0x00E0 = .ok .cls ∧ decode 0x00EE = .ok .ret ∧ decode 0x1204 = .ok (.jp 0x204) ∧
  decode 0x2ABC = .ok (.call 0xABC) ∧ decode 0x3A10 = .ok (.seImm 0xA 0x10) ∧ decode 0x4A10 = .ok (.sneImm 0xA 0x10) ∧
  decode 0x5120 = .ok (.seReg 1 2) ∧ decode 0x6A3F = .ok (.ldImm 0xA 0x3F) ∧ decode 0x70FF = .ok (.addImm 0 0xFF) ∧
  decode 0x8AB4 = .ok (.addReg 0xA 0xB) ∧ decode 0x9120 = .ok (.sneReg 1 2) ∧ decode 0xA20E = .ok (.ldI 0x20E) ∧
  decode 0xBFFF = .ok (.jpV0 0xFFF) ∧ decode 0xC30F = .ok (.rnd 3 0x0F) ∧ decode 0xD12A = .ok (.drw 1 2 0xA) ∧
  decode 0xE29E = .ok (.skp 2) ∧ decode 0xF033 = .ok (.ldB 0) ∧ decode 0x0123 = .error (.unrecognized 0x0123)

/-- Decoding the canonical word of an instruction gives it back, for every instruction and every operand (R91, R92, R100;
the sub-opcode fields compared are decision D19). -/
def Obligations.DecodeOfEncodeIsTheInstruction : Prop :=
  ∀ i : Instr, decode (encode i) = .ok i

/-- A word that decodes to `i` differs from the canonical word of `i` in ignored bits only (R98, R101; D19). -/
def Obligations.DecodeLosesOnlyIgnoredBits : Prop :=
  ∀ (w : Word) (i : Instr), decode w = .ok i → encode i = w &&& ~~~(ignoredBits i)

/-- The dispatch by family (R94 to R98, D19) selects exactly the row of the opcode map with `w & mask = match` (R100,
R124). -/
def Obligations.DispatchSelectsTheMatchingRow : Prop :=
  ∀ (w : Word) (r : OpcodeRow), r ∈ opcodeMap →
    (w &&& r.mask = r.bits ↔ ∃ i, decode w = .ok i ∧ i.row = r)

/-- The unrecognized words are exactly those R99 lists (D19, D30). -/
def Obligations.UnrecognizedWordsAreTheListed : Prop :=
  ∀ w : Word, decode w = .error (.unrecognized w) ↔
    ((fieldsOf w).fam = 0x0 ∧ w ≠ 0x00E0 ∧ w ≠ 0x00EE) ∨
    ((fieldsOf w).fam = 0x8 ∧ (fieldsOf w).n ∈ [0x8, 0x9, 0xA, 0xB, 0xC, 0xD, 0xF]) ∨
    ((fieldsOf w).fam = 0xE ∧ (fieldsOf w).kk ∉ [0x9E, 0xA1]) ∨
    ((fieldsOf w).fam = 0xF ∧ (fieldsOf w).kk ∉ [0x07, 0x0A, 0x15, 0x18, 0x1E, 0x29, 0x33, 0x55, 0x65])

/-! ### Memory (spec/20_memory.md) -/

/-- Fetch is big-endian from `PC` and `PC + 1`, and every address is taken modulo 4096 (R64, R122; the reduction modulo
4096 is decision D4). -/
def Obligations.FetchIsBigEndianAndWraps : Prop :=
  ∀ (s : State) (a : Nat),
    s.fetchWord.toNat = (s.readByte (s.pc.toNat % 4096)).toNat * 256 + (s.readByte ((s.pc.toNat + 1) % 4096)).toNat ∧
    s.readByte (a + 4096) = s.readByte a ∧ ∀ b, s.writeByte (a + 4096) b = s.writeByte a b

/-- Two canonical memories that read alike at every address are the same list: the representation (log entry 9) adds
nothing to the 4096 bytes of R60. -/
def Obligations.CanonicalMemoryIsUnique : Prop :=
  ∀ (f : Font) (m l : Memory), Memory.wf f m → Memory.wf f l →
    (∀ a, a < 4096 → Memory.read f m a = Memory.read f l a) → m = l

/-! ### The cycle (spec/40_cycle_and_dispatch.md) -/

/-- When the word at `PC` decodes to `i` on a running machine, a step is `exec i` followed by the end of the cycle: the
tick, or nothing when the instruction halted the machine (R124, R127; R121 and R128 are decision D8). -/
def Obligations.StepRunsTheDecodedInstruction : Prop :=
  ∀ (s : State) (i : Instr), s.halt = none → decode s.fetchWord = .ok i →
    step s = mapNext (fun t => if t.halt = none then t.tick else t) (exec i s)

/-- On a halted machine a cycle answers its error and changes nothing (R121, R255, decision D8; the answer is a fault, log
entry 5), and a timer tick by the host does nothing (R276, D34). -/
def Obligations.HaltedMachineStaysAsItIs : Prop :=
  ∀ (s : State) (e : Fatal), s.halt = some e →
    step s = .fault (.halted e) ∧ cycleError s = some e ∧ (∀ r, applyMove (.cycle r) s = s) ∧ hostTimerTick s = s

/-- An unrecognized word is reported with its address, skipped, and followed by the tick; the cycle is `Ok` (R126, R258;
the report's content is D18, the tick D32; the log that holds the report is the model's, log entry 4). -/
def Obligations.UnrecognizedWordIsReportedAndSkipped : Prop :=
  ∀ s : State, s.halt = none → decode s.fetchWord = .error (.unrecognized s.fetchWord) →
    ∃ t, step s = .next t ∧ t.reports = ⟨s.pc, s.fetchWord⟩ :: s.reports ∧ t.pc.toNat = (s.pc.toNat + 2) % 65536 ∧
      t.dt.toNat = s.dt.toNat - 1 ∧ t.st.toNat = s.st.toNat - 1 ∧
      Framed [] [.reports, .delay, .sound] s t ∧ cycleError s = none

/-- In every cycle that is not halted and raises no fatal condition the tick follows the instruction: each timer loses 1
unless it is 0, and nothing else changes (R127; natural subtraction stops at 0). That it also follows an unrecognized word
and a waiting Fx0A is decision D32 (log entry 22), that it does not follow a fatal condition D8 (log entry 5). Fx07 reads
`DT` before the tick, and Fx15 and Fx18 leave one less than they wrote. -/
def Obligations.TickFollowsEveryInstruction : Prop :=
  ∀ s : State, s.halt = none → ∃ u, runWord s.fetchWord s = .next u ∧
    (u.halt = none → ∃ t, step s = .next t ∧ t.dt.toNat = u.dt.toNat - 1 ∧ t.st.toNat = u.st.toNat - 1 ∧
      t.pc = u.pc ∧ Framed [] [.delay, .sound] u t ∧
      (∀ x, decode s.fetchWord = .ok (.ldVxDt x) → t.getV x = s.dt) ∧
      (∀ x, decode s.fetchWord = .ok (.ldDtVx x) → t.dt.toNat = (s.getV x).toNat - 1) ∧
      (∀ x, decode s.fetchWord = .ok (.ldStVx x) → t.st.toNat = (s.getV x).toNat - 1))

/-- A return on the empty stack and a call on the full one write nothing but `HALT`, and no tick follows (R128, R254,
decision D8). -/
def Obligations.FatalCycleWritesOnlyHalt : Prop :=
  ∀ s : State, s.halt = none →
    (decode s.fetchWord = .ok .ret → s.sp.val = 0 →
      step s = .next { s with halt := some .stackUnderflow } ∧ cycleError s = some .stackUnderflow) ∧
    (∀ nnn, decode s.fetchWord = .ok (.call nnn) → s.sp.val = 16 →
      step s = .next { s with halt := some .stackOverflow } ∧ cycleError s = some .stackOverflow)

/-- Only a return on the empty stack and a call on the full one change `HALT` (R250, R262, R33). -/
def Obligations.OnlyCallAndReturnHalt : Prop :=
  ∀ (i : Instr) (s t : State), exec i s = .next t → t.halt ≠ s.halt →
    (i = .ret ∧ s.sp.val = 0 ∧ t.halt = some .stackUnderflow) ∨
    (∃ nnn, i = .call nnn ∧ s.sp.val = 16 ∧ t.halt = some .stackOverflow)

/-- Every instruction, in every state, answers a next state in the model, and so does every cycle of a running machine
(R120, R250, R260). For 00EE with `SP = 0` and 2nnn with `SP = 16` that next state is the halt: the spec raises `Fatal`, the
instruction has not executed (R254), and the model answers the state before it with `HALT` set (decision D8, log entry 5).
The statement says nothing of what the other next states hold. -/
def Obligations.EveryInstructionAnswersANextState : Prop :=
  (∀ (i : Instr) (s : State), ∃ t, exec i s = .next t) ∧ ∀ s : State, s.halt = none → ∃ t, step s = .next t

/-- `PC` after each instruction is as R125's table says (the key selected by Ex9E and ExA1 is D12, the last row D8). -/
def Obligations.ProgramCounterRule : Prop :=
  ∀ (i : Instr) (s t : State), exec i s = .next t → t.pc = pcAfter i s

/-- Every instruction leaves alone every register, byte and latch its row does not name (R12, R20; decision D2). -/
def Obligations.WriteSetsAreComplete : Prop :=
  ∀ (i : Instr) (s t : State), exec i s = .next t → Framed (writtenRegs i) (writtenParts i) s t

/-! ### Control transfer (spec/41_control_transfer.md) -/

/-- 1nnn (R141): `PC` is `nnn`, nothing else changes, and a jump to its own address repeats the state. -/
def Obligations.JumpSetsTheProgramCounter : Prop :=
  ∀ (nnn : Addr12) (s : State), decode (wordNNN 0x1 nnn) = .ok (.jp nnn) ∧
    ∃ t, exec (.jp nnn) s = .next t ∧ t.pc.toNat = nnn.toNat ∧ Framed [] [] s t ∧ (s.pc.toNat = nnn.toNat → t = s)

/-- 2nnn on a stack that is not full (R142): pushes `PC + 2`, leaves every other entry, and jumps. -/
def Obligations.CallPushesTheReturnAddress : Prop :=
  ∀ (nnn : Addr12) (s : State), s.sp.val < 16 →
    ∃ t, exec (.call nnn) s = .next t ∧ t.pc.toNat = nnn.toNat ∧ t.sp.val = s.sp.val + 1 ∧
      (∀ k (h : k < 16), t.stack[k].toNat = if k = s.sp.val then (s.pc.toNat + 2) % 65536 else s.stack[k].toNat) ∧
      Framed [] [.stack] s t

/-- 00EE on a stack that is not empty (R140): the popped entry becomes `PC` and is not erased. -/
def Obligations.ReturnPopsTheProgramCounter : Prop :=
  ∀ (s : State) (h : s.sp.val ≠ 0),
    ∃ t, exec .ret s = .next t ∧ t.pc = s.stack[s.sp.val - 1]'(by omega) ∧ t.sp.val = s.sp.val - 1 ∧
      t.stack = s.stack ∧ Framed [] [.stack] s t

/-- A call followed by a return continues after the call with the depth of before (R140, R142; the property of vector
S4). -/
def Obligations.ReturnUndoesCall : Prop :=
  ∀ (nnn : Addr12) (s : State), s.sp.val < 16 →
    ∃ t u, exec (.call nnn) s = .next t ∧ exec .ret t = .next u ∧ u.pc.toNat = (s.pc.toNat + 2) % 65536 ∧ u.sp = s.sp ∧
      Framed [] [.stack] s u

/-- 3xkk and 4xkk (R143, R144): the comparison decides between 4 and 2 bytes; nothing else changes. -/
def Obligations.ImmediateSkipsCompare : Prop :=
  ∀ (x : Nibble) (kk : Byte) (s : State),
    (decode (wordXKK 0x3 x kk) = .ok (.seImm x kk) ∧
      ∃ t, exec (.seImm x kk) s = .next t ∧
        t.pc.toNat = (s.pc.toNat + if (s.getV x).toNat = kk.toNat then 4 else 2) % 65536 ∧ Framed [] [] s t) ∧
    (decode (wordXKK 0x4 x kk) = .ok (.sneImm x kk) ∧
      ∃ t, exec (.sneImm x kk) s = .next t ∧
        t.pc.toNat = (s.pc.toNat + if (s.getV x).toNat ≠ kk.toNat then 4 else 2) % 65536 ∧ Framed [] [] s t)

/-- 5xy0 and 9xy0 (R145, R146), and their consequences for `x = y`; that any low nibble `n` encodes them is decision D19
(R98). -/
def Obligations.RegisterSkipsCompare : Prop :=
  ∀ (x y n : Nibble) (s : State),
    decode (wordXYN 0x5 x y n) = .ok (.seReg x y) ∧ decode (wordXYN 0x9 x y n) = .ok (.sneReg x y) ∧
    (∃ t, exec (.seReg x y) s = .next t ∧
      t.pc.toNat = (s.pc.toNat + if (s.getV x).toNat = (s.getV y).toNat then 4 else 2) % 65536 ∧ Framed [] [] s t ∧
      (x = y → t.pc.toNat = (s.pc.toNat + 4) % 65536)) ∧
    (∃ t, exec (.sneReg x y) s = .next t ∧
      t.pc.toNat = (s.pc.toNat + if (s.getV x).toNat ≠ (s.getV y).toNat then 4 else 2) % 65536 ∧ Framed [] [] s t ∧
      (x = y → t.pc.toNat = (s.pc.toNat + 2) % 65536))

/-- Bnnn (R147): the 16-bit sum of `nnn` and `V0`, not reduced to 12 bits. -/
def Obligations.IndexedJumpAddsV0 : Prop :=
  ∀ (nnn : Addr12) (s : State), decode (wordNNN 0xB nnn) = .ok (.jpV0 nnn) ∧
    ∃ t, exec (.jpV0 nnn) s = .next t ∧ t.pc.toNat = nnn.toNat + (s.getV 0).toNat ∧ Framed [] [] s t

/-! ### Load, arithmetic, logic, shifts, random (spec/42_load_and_alu.md) -/

/-- 6xkk (R160): `Vx` is `kk`, `VF` included as plain data. -/
def Obligations.LoadImmediateWritesTheRegister : Prop :=
  ∀ (x : Nibble) (kk : Byte) (s : State), decode (wordXKK 0x6 x kk) = .ok (.ldImm x kk) ∧
    ∃ t, exec (.ldImm x kk) s = .next t ∧ t.getV x = kk ∧ t.pc.toNat = (s.pc.toNat + 2) % 65536 ∧ Framed [x] [] s t

/-- 7xkk (R161): the sum modulo 256, and no flag. -/
def Obligations.AddImmediateSetsNoFlag : Prop :=
  ∀ (x : Nibble) (kk : Byte) (s : State), decode (wordXKK 0x7 x kk) = .ok (.addImm x kk) ∧
    ∃ t, exec (.addImm x kk) s = .next t ∧ (t.getV x).toNat = ((s.getV x).toNat + kk.toNat) % 256 ∧
      t.pc.toNat = (s.pc.toNat + 2) % 65536 ∧ Framed [x] [] s t

/-- 8xy0 (R162). -/
def Obligations.CopyRegister : Prop :=
  ∀ (x y : Nibble) (s : State), decode (wordXYN 0x8 x y 0x0) = .ok (.ldReg x y) ∧
    ∃ t, exec (.ldReg x y) s = .next t ∧ t.getV x = s.getV y ∧ t.pc.toNat = (s.pc.toNat + 2) % 65536 ∧ Framed [x] [] s t

/-- 8xy1, 8xy2, 8xy3 (R163, R164, R165): bit by bit, and no flag; that they leave `VF`, as every register their rows do not
name, is decision D2 (R12, log entry 11). -/
def Obligations.LogicIsBitwiseAndSetsNoFlag : Prop :=
  ∀ (x y : Nibble) (s : State),
    (decode (wordXYN 0x8 x y 0x1) = .ok (.orReg x y) ∧
      ∃ t, exec (.orReg x y) s = .next t ∧
        (∀ k, k < 8 → (t.getV x).getLsbD k = ((s.getV x).getLsbD k || (s.getV y).getLsbD k)) ∧
        t.pc.toNat = (s.pc.toNat + 2) % 65536 ∧ Framed [x] [] s t) ∧
    (decode (wordXYN 0x8 x y 0x2) = .ok (.andReg x y) ∧
      ∃ t, exec (.andReg x y) s = .next t ∧
        (∀ k, k < 8 → (t.getV x).getLsbD k = ((s.getV x).getLsbD k && (s.getV y).getLsbD k)) ∧
        t.pc.toNat = (s.pc.toNat + 2) % 65536 ∧ Framed [x] [] s t) ∧
    (decode (wordXYN 0x8 x y 0x3) = .ok (.xorReg x y) ∧
      ∃ t, exec (.xorReg x y) s = .next t ∧
        (∀ k, k < 8 → (t.getV x).getLsbD k = ((s.getV x).getLsbD k ^^ (s.getV y).getLsbD k)) ∧
        t.pc.toNat = (s.pc.toNat + 2) % 65536 ∧ Framed [x] [] s t)

/-- 8xy4 (R166): the sum modulo 256 in `Vx`, the carry in `VF` unless `x = 15`, where the sum overwrites it (the step order
is decision D1, log entry 10). -/
def Obligations.AddRegistersSetsTheCarry : Prop :=
  ∀ (x y : Nibble) (s : State),
    ∃ t, exec (.addReg x y) s = .next t ∧ (t.getV x).toNat = ((s.getV x).toNat + (s.getV y).toNat) % 256 ∧
      (x ≠ vf → (t.getV vf).toNat = if 255 < (s.getV x).toNat + (s.getV y).toNat then 1 else 0) ∧
      t.pc.toNat = (s.pc.toNat + 2) % 65536 ∧ Framed [vf, x] [] s t

/-- 8xy5 and 8xy7 (R167, R169): the flag is the strict comparison of the old values; the difference then reads register 15
as that flag (the step order is decision D1, log entry 10). -/
def Obligations.SubtractionsSetTheGreaterFlag : Prop :=
  ∀ (x y : Nibble) (s : State),
    (∃ t, exec (.sub x y) s = .next t ∧
      (t.getV x).toNat = ((if x = vf then greaterBit (s.getV x) (s.getV y) else (s.getV x).toNat) + 256 -
        (if y = vf then greaterBit (s.getV x) (s.getV y) else (s.getV y).toNat)) % 256 ∧
      (x ≠ vf → (t.getV vf).toNat = greaterBit (s.getV x) (s.getV y)) ∧
      t.pc.toNat = (s.pc.toNat + 2) % 65536 ∧ Framed [vf, x] [] s t) ∧
    (∃ t, exec (.subn x y) s = .next t ∧
      (t.getV x).toNat = ((if y = vf then greaterBit (s.getV y) (s.getV x) else (s.getV y).toNat) + 256 -
        (if x = vf then greaterBit (s.getV y) (s.getV x) else (s.getV x).toNat)) % 256 ∧
      (x ≠ vf → (t.getV vf).toNat = greaterBit (s.getV y) (s.getV x)) ∧
      t.pc.toNat = (s.pc.toNat + 2) % 65536 ∧ Framed [vf, x] [] s t)

/-- 8xy6 and 8xyE (R168, R170): one position, the bit shifted out in `VF`; with `x = 15` the flag itself is shifted (the
step order is decision D1, log entry 10; that `Vy` has no part, whatever nibble stands in its place, is D29). -/
def Obligations.ShiftsMoveOneBitOut : Prop :=
  ∀ (x y : Nibble) (s : State),
    decode (wordXYN 0x8 x y 0x6) = .ok (.shr x) ∧ decode (wordXYN 0x8 x y 0xE) = .ok (.shl x) ∧
    (∃ t, exec (.shr x) s = .next t ∧
      (x ≠ vf → (t.getV x).toNat = (s.getV x).toNat / 2 ∧ (t.getV vf).toNat = (s.getV x).toNat % 2) ∧
      (x = vf → t.getV vf = 0) ∧ t.pc.toNat = (s.pc.toNat + 2) % 65536 ∧ Framed [vf, x] [] s t) ∧
    (∃ t, exec (.shl x) s = .next t ∧
      (x ≠ vf → (t.getV x).toNat = (s.getV x).toNat * 2 % 256 ∧ (t.getV vf).toNat = (s.getV x).toNat / 128) ∧
      (x = vf → (t.getV vf).toNat = if 128 ≤ (s.getV vf).toNat then 2 else 0) ∧
      t.pc.toNat = (s.pc.toNat + 2) % 65536 ∧ Framed [vf, x] [] s t)

/-- Cxkk (R171): the byte on the random input, whatever it is, masked bit by bit; the generator advances once (R274, D17;
the input and its counter are the model's fields, log entry 3). -/
def Obligations.RandomIsMaskedInput : Prop :=
  ∀ (x : Nibble) (kk : Byte) (s : State),
    ∃ t, exec (.rnd x kk) s = .next t ∧ (∀ k, k < 8 → (t.getV x).getLsbD k = (s.rnd.getLsbD k && kk.getLsbD k)) ∧
      t.draws = s.draws + 1 ∧ t.pc.toNat = (s.pc.toNat + 2) % 65536 ∧ Framed [x] [.random] s t

/-! ### Index register and memory (spec/43_index_and_memory.md) -/

/-- Annn and Fx1E (R190, R191): `I` at its full 16 bits with arithmetic modulo 65536, which is decision D6 (R23, log entry
13), and no flag. -/
def Obligations.IndexLoadAndAdd : Prop :=
  (∀ (nnn : Addr12) (s : State), decode (wordNNN 0xA nnn) = .ok (.ldI nnn) ∧
    ∃ t, exec (.ldI nnn) s = .next t ∧ t.i.toNat = nnn.toNat ∧ t.pc.toNat = (s.pc.toNat + 2) % 65536 ∧
      Framed [] [.index] s t) ∧
  ∀ (x : Nibble) (s : State), decode (wordXKK 0xF x 0x1E) = .ok (.addI x) ∧
    ∃ t, exec (.addI x) s = .next t ∧ t.i.toNat = (s.i.toNat + (s.getV x).toNat) % 65536 ∧
      t.pc.toNat = (s.pc.toNat + 2) % 65536 ∧ Framed [] [.index] s t

/-- Fx29 (R192): the glyph address for the whole byte (D16), whatever `FONT_BASE` is (D14, log entry 1); for a digit it is
where R42 puts the glyph. -/
def Obligations.GlyphAddressIsLinear : Prop :=
  ∀ (x : Nibble) (s : State),
    ∃ t, exec (.ldF x) s = .next t ∧ t.i.toNat = s.font.base.val + 5 * (s.getV x).toNat ∧
      t.pc.toNat = (s.pc.toNat + 2) % 65536 ∧ Framed [] [.index] s t

/-- Fx33 (R193): the three decimal digits at `I`, `I + 1`, `I + 2` (addresses modulo 4096, D4), and no other byte. -/
def Obligations.DecimalDigitsAreStored : Prop :=
  ∀ (x : Nibble) (s : State),
    ∃ t, exec (.ldB x) s = .next t ∧
      (t.readByte (s.indexAddr 0)).toNat = (s.getV x).toNat / 100 ∧
      (t.readByte (s.indexAddr 0 + 1)).toNat = (s.getV x).toNat / 10 % 10 ∧
      (t.readByte (s.indexAddr 0 + 2)).toNat = (s.getV x).toNat % 10 ∧
      UntouchedOutside (s.indexAddr 0) 3 s t ∧ t.pc.toNat = (s.pc.toNat + 2) % 65536 ∧ Framed [] [.memory] s t

/-- Fx55 (R194): `V0 .. Vx` at `I .. I + x` (addresses modulo 4096, D4), and no other byte; `I` is unchanged (D2). -/
def Obligations.RegistersAreStored : Prop :=
  ∀ (x : Nibble) (s : State),
    ∃ t, exec (.ldMemVx x) s = .next t ∧
      (∀ r : Nibble, r.toNat ≤ x.toNat → t.readByte (s.indexAddr 0 + r.toNat) = s.getV r) ∧
      UntouchedOutside (s.indexAddr 0) (x.toNat + 1) s t ∧ t.pc.toNat = (s.pc.toNat + 2) % 65536 ∧
      Framed [] [.memory] s t

/-- Fx65 (R195): `V0 .. Vx` from `I .. I + x` (addresses modulo 4096, D4); the registers above, memory and `I` are
unchanged (D2). -/
def Obligations.RegistersAreLoaded : Prop :=
  ∀ (x : Nibble) (s : State),
    ∃ t, exec (.ldVxMem x) s = .next t ∧
      (∀ r : Nibble, t.getV r = if r.toNat ≤ x.toNat then s.readByte (s.indexAddr 0 + r.toNat) else s.getV r) ∧
      t.pc.toNat = (s.pc.toNat + 2) % 65536 ∧ Framed (writtenRegs (.ldVxMem x)) [] s t

/-- Registers stored by Fx55 come back by Fx65 whatever the registers held in between (R194, R195; D4). -/
def Obligations.LoadUndoesStore : Prop :=
  ∀ (x : Nibble) (s : State) (v : Vector Byte 16),
    ∃ t u, exec (.ldMemVx x) s = .next t ∧ exec (.ldVxMem x) { t with v := v } = .next u ∧
      (∀ r : Nibble, r.toNat ≤ x.toNat → u.getV r = s.getV r) ∧
      ∀ r : Nibble, x.toNat < r.toNat → u.getV r = v[r.toNat]'(r.isLt)

/-- Two registers stored by Fx55 are the instruction word fetched from their address, the lower-numbered register its high
byte: self-modifying code needs no fence (R65, R73, derived there; D4). -/
def Obligations.StoredBytesAreFetched : Prop :=
  ∀ (x : Nibble) (s : State) (k : Nat), k < x.toNat →
    ∃ t, exec (.ldMemVx x) s = .next t ∧
      { t with pc := BitVec.ofNat 16 (s.indexAddr k) }.fetchWord.toNat
        = (s.getV (BitVec.ofNat 4 k)).toNat * 256 + (s.getV (BitVec.ofNat 4 (k + 1))).toNat

/-! ### Display (spec/44_display.md) -/

/-- 00E0 (R210): every pixel dark and the redraw flag set, whatever the screen was. -/
def Obligations.ClearScreenDarkensEveryPixel : Prop :=
  decode 0x00E0 = .ok .cls ∧
  ∀ s : State, ∃ t, exec .cls s = .next t ∧ (∀ px py, t.fb.pixel px py = false) ∧ t.rd = true ∧
    t.pc.toNat = (s.pc.toNat + 2) % 65536 ∧ Framed [] [.pixels, .redraw] s t

/-- Dxyn (R211, R212, R213): pixel by pixel the XOR of the old screen and the sprite, the collision in `VF`, the redraw flag
set, for every `x`, `y` and `n` (the bit order is D10, the reading of `Vx` and `Vy` before `VF` is written D11, the
addresses D4). -/
def Obligations.DrawIsPointwiseXor : Prop :=
  ∀ (x y n : Nibble) (s : State),
    ∃ t, exec (.drw x y n) s = .next t ∧
      (∀ px py, SpriteCovers s x y n px py → t.fb.pixel px py = !s.fb.pixel px py) ∧
      (∀ px py, ¬ SpriteCovers s x y n px py → t.fb.pixel px py = s.fb.pixel px py) ∧
      ((∃ px py, SpriteCovers s x y n px py ∧ s.fb.pixel px py = true) → t.getV vf = 1) ∧
      ((¬ ∃ px py, SpriteCovers s x y n px py ∧ s.fb.pixel px py = true) → t.getV vf = 0) ∧
      t.rd = true ∧ t.pc.toNat = (s.pc.toNat + 2) % 65536 ∧ Framed [vf] [.pixels, .redraw] s t

/-- Drawing the same sprite twice restores the screen, and the second draw reports a collision exactly when some set bit of
the sprite fell on a pixel that was dark before the first. This follows R211's pseudocode AGAINST its remark (c), which gives
`VF = 1` for any set bit, without condition (log entry 23, DEDUCED). The coordinates must not be in `VF`, which the first draw
overwrites (D11); one draw with `x = 15` or `y = 15` is in `DrawIsPointwiseXor`. -/
def Obligations.DrawingTwiceRestoresTheScreen : Prop :=
  ∀ (x y n : Nibble) (s : State), x ≠ vf → y ≠ vf →
    ∃ t u, exec (.drw x y n) s = .next t ∧ exec (.drw x y n) t = .next u ∧ u.fb = s.fb ∧
      (u.getV vf = 1 ↔ ∃ px py, SpriteCovers s x y n px py ∧ s.fb.pixel px py = false)

/-! ### Keypad and timers (spec/45_keypad_and_timers.md) -/

/-- Ex9E and ExA1 (R230, R231): the level of the key named by `Vx` modulo 16 (decision D12) decides the skip. -/
def Obligations.KeySkipsTestTheKey : Prop :=
  ∀ (x : Nibble) (s : State),
    (∃ t, exec (.skp x) s = .next t ∧
      t.pc.toNat = (s.pc.toNat + if s.keys[(s.getV x).toNat % 16]'(Nat.mod_lt _ (by decide)) = true then 4 else 2) % 65536 ∧
      Framed [] [] s t) ∧
    (∃ t, exec (.sknp x) s = .next t ∧
      t.pc.toNat = (s.pc.toNat + if s.keys[(s.getV x).toNat % 16]'(Nat.mod_lt _ (by decide)) = false then 4 else 2) % 65536 ∧
      Framed [] [] s t)

/-- Fx07 (R232): `Vx` is `DT` before this cycle's tick; the tick then decrements `DT` and not the copy. -/
def Obligations.DelayTimerIsReadBeforeTheTick : Prop :=
  ∀ (x : Nibble) (s : State), decode (wordXKK 0xF x 0x07) = .ok (.ldVxDt x) ∧
    (∃ t, exec (.ldVxDt x) s = .next t ∧ t.getV x = s.dt ∧ t.pc.toNat = (s.pc.toNat + 2) % 65536 ∧ Framed [x] [] s t) ∧
    (s.halt = none → decode s.fetchWord = .ok (.ldVxDt x) →
      ∃ u, step s = .next u ∧ u.getV x = s.dt ∧ u.dt.toNat = s.dt.toNat - 1)

/-- Fx0A with a key pressed (R233): `Vx` becomes the index of a pressed key, of that key when it is the only one; which of
several is open (decision D13, log entry 2). -/
def Obligations.KeyWaitReportsAPressedKey : Prop :=
  ∀ (x : Nibble) (s : State), (∃ k, s.keyDown k = true) →
    ∃ t k, exec (.ldVxK x) s = .next t ∧ s.keyDown k = true ∧ (t.getV x).toNat = k.toNat ∧
      (∀ j, (∀ l, s.keyDown l = true → l = j) → k = j) ∧
      t.pc.toNat = (s.pc.toNat + 2) % 65536 ∧ Framed [x] [] s t

/-- Fx0A with no key pressed (R233): nothing is written and `PC` stays, while the timers run down in that cycle (D32). -/
def Obligations.KeyWaitLeavesTheStateAlone : Prop :=
  ∀ (x : Nibble) (s : State), (∀ k, s.keyDown k = false) →
    exec (.ldVxK x) s = .next s ∧
    (s.halt = none → decode s.fetchWord = .ok (.ldVxK x) →
      ∃ t, step s = .next t ∧ t.pc = s.pc ∧ t.dt.toNat = s.dt.toNat - 1 ∧ t.st.toNat = s.st.toNat - 1 ∧
        Framed [] [.delay, .sound] s t)

/-- Fx15 (R234): any value may be written; at the end of its own cycle `DT` is one less, 0 for 0. -/
def Obligations.DelayTimerIsSet : Prop :=
  ∀ (x : Nibble) (s : State), decode (wordXKK 0xF x 0x15) = .ok (.ldDtVx x) ∧
    (∃ t, exec (.ldDtVx x) s = .next t ∧ t.dt = s.getV x ∧ t.pc.toNat = (s.pc.toNat + 2) % 65536 ∧
      Framed [] [.delay] s t) ∧
    (s.halt = none → decode s.fetchWord = .ok (.ldDtVx x) →
      ∃ u, step s = .next u ∧ u.dt.toNat = (s.getV x).toNat - 1)

/-- Fx18 (R235): as Fx15 for `ST`; the output `sound_active` (R266, decision D23) follows it. -/
def Obligations.SoundTimerIsSet : Prop :=
  ∀ (x : Nibble) (s : State),
    (∃ t, exec (.ldStVx x) s = .next t ∧ t.st = s.getV x ∧ t.pc.toNat = (s.pc.toNat + 2) % 65536 ∧
      (t.soundActive = true ↔ (s.getV x).toNat ≠ 0) ∧ Framed [] [.sound] s t) ∧
    (s.halt = none → decode s.fetchWord = .ok (.ldStVx x) →
      ∃ u, step s = .next u ∧ u.st.toNat = (s.getV x).toNat - 1)

/-! ### The whole machine -/

/-- Every step keeps the invariant: canonical memory (log entry 9), a precise halt latch (R254, D8), genuine reports (R99,
R258; log entry 4). -/
def Obligations.StepKeepsTheInvariant : Prop :=
  ∀ s t : State, s.Inv → step s = .next t → t.Inv

/-- The state after `Create` satisfies the invariant (R40). -/
def Obligations.ResetSatisfiesTheInvariant : Prop :=
  State.reset.Inv

/-- Every host operation keeps the invariant (R268, R276). -/
def Obligations.HostOperationsKeepTheInvariant : Prop :=
  ∀ (o : HostOp) (s : State), s.Inv → (hostApply o s).2.Inv

/-- The redraw flag, the sound timer and the reports never affect execution: states that differ only there stay so (R32,
R34(b), R44). -/
def Obligations.ObserversNeverAffectExecution : Prop :=
  ∀ s q : State, s.eraseObservers = q.eraseObservers →
    mapNext State.eraseObservers (step s) = mapNext State.eraseObservers (step q)

/-- Stack entries at or above `SP` cannot be observed: states that differ only there step alike and still differ only there
(R26, R44(d); D7). -/
def Obligations.StaleStackEntriesAreInvisible : Prop :=
  ∀ (s t : State) (stk : Vector Word 16), (∀ k (h : k < 16), k < s.sp.val → stk[k] = s.stack[k]) → step s = .next t →
    ∃ u, step { s with stack := stk } = .next u ∧ u = { t with stack := u.stack } ∧
      ∀ k (h : k < 16), k < t.sp.val → u.stack[k] = t.stack[k]

/-! ### The host operations (spec/60_exceptions.md, spec/70_reset_and_hazards.md) -/

/-- `Create`, and the state after it (R290, R40): everything 0 but `PC` and the font bytes. That the key latches and `RD` are
0 is decisions D24 and D25 (log entry 22). The font clause speaks of the state's own field `font`, which `Create` keeps
(DESIGN CHOICE, log entries 1 and 8): `FONT_BASE` and `FONT_TABLE` are OPEN (D14, D15). -/
def Obligations.CreateZeroesTheMachine : Prop :=
  (Zeroed State.reset ∧ FontLoaded 4096 State.reset) ∧
  ∀ s : State, (hostApply .create s).1 = .ok ∧ Zeroed (hostApply .create s).2 ∧ FontLoaded 4096 (hostApply .create s).2

/-- `Reset` (R292, decision D20): as `Create`, but the program area keeps its bytes. -/
def Obligations.ResetKeepsTheProgramArea : Prop :=
  ∀ s : State, (hostApply .reset s).1 = .ok ∧ Zeroed (hostApply .reset s).2 ∧ FontLoaded 0x200 (hostApply .reset s).2 ∧
    ∀ a, 0x200 ≤ a → a < 4096 → (hostApply .reset s).2.readByte a = s.readByte a

/-- `LoadProgram` refuses more than 3584 bytes and then writes nothing; 3584 are accepted (R294). Byte `j` of an accepted
program stands at `0x200 + j` (R293), and a program of no bytes is accepted (R293, decision D21, log entry 19). -/
def Obligations.OversizedProgramsAreRefused : Prop :=
  ∀ (bytes : List Byte) (s : State),
    (3584 < bytes.length → hostApply (.loadProgram bytes) s = (.sizeExceeded, s)) ∧
    (bytes.length ≤ 3584 → (hostApply (.loadProgram bytes) s).1 = .ok ∧
      ∀ j (h : j < bytes.length), (hostApply (.loadProgram bytes) s).2.readByte (0x200 + j) = bytes[j])

/-- `LoadProgram` writes its bytes from `0x200` on and nothing else (R293, decision D21). -/
def Obligations.LoadingWritesOnlyTheProgram : Prop :=
  ∀ (bytes : List Byte) (s t : State), hostApply (.loadProgram bytes) s = (.ok, t) →
    (∀ a, a < 4096 → (a < 0x200 ∨ 0x200 + bytes.length ≤ a) → t.readByte a = s.readByte a) ∧
    Framed [] [.memory] s t ∧ t.pc = s.pc

/-- `SetKeys` overwrites all 16 latches and nothing else, halted or not; `FramebufferSnapshot` answers the grid and changes
nothing; `ConsumeRedrawFlag` answers the flag and clears it, so that a second call answers false (R269, R270, R271). -/
def Obligations.BridgeSetsKeysAndReadsTheScreen : Prop :=
  ∀ s : State,
    (∀ ks : Vector Bool 16, ∃ t, hostApply (.setKeys ks) s = (.ok, t) ∧
      (∀ k : Nibble, t.keyDown k = ks[k.toNat]'(k.isLt)) ∧ Framed [] [.keys] s t ∧ t.pc = s.pc) ∧
    (∃ g, hostApply .framebufferSnapshot s = (.grid g, s) ∧ ∀ px py, g.pixel px py = s.fb.pixel px py) ∧
    ∃ t, hostApply .consumeRedrawFlag s = (.flag s.rd, t) ∧ t.rd = false ∧ Framed [] [.redraw] s t ∧ t.pc = s.pc ∧
      hostApply .consumeRedrawFlag t = (.flag false, t)

/-- `TimerTick` on a running machine is the tick and nothing else (R267, decision D22). -/
def Obligations.HostTickIsTheTick : Prop :=
  ∀ s : State, s.halt = none →
    ∃ t, hostApply .timerTick s = (.ok, t) ∧ t.dt.toNat = s.dt.toNat - 1 ∧ t.st.toNat = s.st.toNat - 1 ∧
      t.pc = s.pc ∧ Framed [] [.delay, .sound] s t

/-- Nothing but `Create` and `Reset` clears the halt latch (R256, R276; decisions D8, D34). -/
def Obligations.OnlyCreateAndResetClearTheHalt : Prop :=
  ∀ (m : Move) (s : State) (e : Fatal), s.halt = some e → (applyMove m s).halt ≠ some e →
    m = .host .create ∨ m = .host .reset
end

