-- ==== Sys2Proof/Laws/State.lean ====
section
/-! SUPPORT. The state's small lemmas: what each update does to each field, and to the reads of a register, a byte of memory
and a key, so that no later proof unfolds a record update. -/

namespace Sys2Proof.Machine

/-! ### setV -/

@[simp] theorem State.setV_v (s : State) (x : Nibble) (b : Byte) : (s.setV x b).v = s.v.set x.toNat b x.isLt := rfl
@[simp] theorem State.setV_i (s : State) (x : Nibble) (b : Byte) : (s.setV x b).i = s.i := rfl
@[simp] theorem State.setV_pc (s : State) (x : Nibble) (b : Byte) : (s.setV x b).pc = s.pc := rfl
@[simp] theorem State.setV_sp (s : State) (x : Nibble) (b : Byte) : (s.setV x b).sp = s.sp := rfl
@[simp] theorem State.setV_stack (s : State) (x : Nibble) (b : Byte) : (s.setV x b).stack = s.stack := rfl
@[simp] theorem State.setV_mem (s : State) (x : Nibble) (b : Byte) : (s.setV x b).mem = s.mem := rfl
@[simp] theorem State.setV_fb (s : State) (x : Nibble) (b : Byte) : (s.setV x b).fb = s.fb := rfl
@[simp] theorem State.setV_dt (s : State) (x : Nibble) (b : Byte) : (s.setV x b).dt = s.dt := rfl
@[simp] theorem State.setV_st (s : State) (x : Nibble) (b : Byte) : (s.setV x b).st = s.st := rfl
@[simp] theorem State.setV_keys (s : State) (x : Nibble) (b : Byte) : (s.setV x b).keys = s.keys := rfl
@[simp] theorem State.setV_rd (s : State) (x : Nibble) (b : Byte) : (s.setV x b).rd = s.rd := rfl
@[simp] theorem State.setV_halt (s : State) (x : Nibble) (b : Byte) : (s.setV x b).halt = s.halt := rfl
@[simp] theorem State.setV_font (s : State) (x : Nibble) (b : Byte) : (s.setV x b).font = s.font := rfl
@[simp] theorem State.setV_rnd (s : State) (x : Nibble) (b : Byte) : (s.setV x b).rnd = s.rnd := rfl
@[simp] theorem State.setV_draws (s : State) (x : Nibble) (b : Byte) : (s.setV x b).draws = s.draws := rfl
@[simp] theorem State.setV_reports (s : State) (x : Nibble) (b : Byte) : (s.setV x b).reports = s.reports := rfl
@[simp] theorem State.readByte_setV (s : State) (x : Nibble) (b : Byte) (c : Nat) : (s.setV x b).readByte c = s.readByte c := rfl
@[simp] theorem State.keyDown_setV (s : State) (x : Nibble) (b : Byte) (k : Nibble) : (s.setV x b).keyDown k = s.keyDown k := rfl

/-! ### setI -/

@[simp] theorem State.setI_v (s : State) (w : Word) : (s.setI w).v = s.v := rfl
@[simp] theorem State.setI_i (s : State) (w : Word) : (s.setI w).i = w := rfl
@[simp] theorem State.setI_pc (s : State) (w : Word) : (s.setI w).pc = s.pc := rfl
@[simp] theorem State.setI_sp (s : State) (w : Word) : (s.setI w).sp = s.sp := rfl
@[simp] theorem State.setI_stack (s : State) (w : Word) : (s.setI w).stack = s.stack := rfl
@[simp] theorem State.setI_mem (s : State) (w : Word) : (s.setI w).mem = s.mem := rfl
@[simp] theorem State.setI_fb (s : State) (w : Word) : (s.setI w).fb = s.fb := rfl
@[simp] theorem State.setI_dt (s : State) (w : Word) : (s.setI w).dt = s.dt := rfl
@[simp] theorem State.setI_st (s : State) (w : Word) : (s.setI w).st = s.st := rfl
@[simp] theorem State.setI_keys (s : State) (w : Word) : (s.setI w).keys = s.keys := rfl
@[simp] theorem State.setI_rd (s : State) (w : Word) : (s.setI w).rd = s.rd := rfl
@[simp] theorem State.setI_halt (s : State) (w : Word) : (s.setI w).halt = s.halt := rfl
@[simp] theorem State.setI_font (s : State) (w : Word) : (s.setI w).font = s.font := rfl
@[simp] theorem State.setI_rnd (s : State) (w : Word) : (s.setI w).rnd = s.rnd := rfl
@[simp] theorem State.setI_draws (s : State) (w : Word) : (s.setI w).draws = s.draws := rfl
@[simp] theorem State.setI_reports (s : State) (w : Word) : (s.setI w).reports = s.reports := rfl
@[simp] theorem State.getV_setI (s : State) (w : Word) (r : Nibble) : (s.setI w).getV r = s.getV r := rfl
@[simp] theorem State.readByte_setI (s : State) (w : Word) (c : Nat) : (s.setI w).readByte c = s.readByte c := rfl
@[simp] theorem State.keyDown_setI (s : State) (w : Word) (k : Nibble) : (s.setI w).keyDown k = s.keyDown k := rfl

/-! ### setDt -/

@[simp] theorem State.setDt_v (s : State) (b : Byte) : (s.setDt b).v = s.v := rfl
@[simp] theorem State.setDt_i (s : State) (b : Byte) : (s.setDt b).i = s.i := rfl
@[simp] theorem State.setDt_pc (s : State) (b : Byte) : (s.setDt b).pc = s.pc := rfl
@[simp] theorem State.setDt_sp (s : State) (b : Byte) : (s.setDt b).sp = s.sp := rfl
@[simp] theorem State.setDt_stack (s : State) (b : Byte) : (s.setDt b).stack = s.stack := rfl
@[simp] theorem State.setDt_mem (s : State) (b : Byte) : (s.setDt b).mem = s.mem := rfl
@[simp] theorem State.setDt_fb (s : State) (b : Byte) : (s.setDt b).fb = s.fb := rfl
@[simp] theorem State.setDt_dt (s : State) (b : Byte) : (s.setDt b).dt = b := rfl
@[simp] theorem State.setDt_st (s : State) (b : Byte) : (s.setDt b).st = s.st := rfl
@[simp] theorem State.setDt_keys (s : State) (b : Byte) : (s.setDt b).keys = s.keys := rfl
@[simp] theorem State.setDt_rd (s : State) (b : Byte) : (s.setDt b).rd = s.rd := rfl
@[simp] theorem State.setDt_halt (s : State) (b : Byte) : (s.setDt b).halt = s.halt := rfl
@[simp] theorem State.setDt_font (s : State) (b : Byte) : (s.setDt b).font = s.font := rfl
@[simp] theorem State.setDt_rnd (s : State) (b : Byte) : (s.setDt b).rnd = s.rnd := rfl
@[simp] theorem State.setDt_draws (s : State) (b : Byte) : (s.setDt b).draws = s.draws := rfl
@[simp] theorem State.setDt_reports (s : State) (b : Byte) : (s.setDt b).reports = s.reports := rfl
@[simp] theorem State.getV_setDt (s : State) (b : Byte) (r : Nibble) : (s.setDt b).getV r = s.getV r := rfl
@[simp] theorem State.readByte_setDt (s : State) (b : Byte) (c : Nat) : (s.setDt b).readByte c = s.readByte c := rfl
@[simp] theorem State.keyDown_setDt (s : State) (b : Byte) (k : Nibble) : (s.setDt b).keyDown k = s.keyDown k := rfl

/-! ### setSt -/

@[simp] theorem State.setSt_v (s : State) (b : Byte) : (s.setSt b).v = s.v := rfl
@[simp] theorem State.setSt_i (s : State) (b : Byte) : (s.setSt b).i = s.i := rfl
@[simp] theorem State.setSt_pc (s : State) (b : Byte) : (s.setSt b).pc = s.pc := rfl
@[simp] theorem State.setSt_sp (s : State) (b : Byte) : (s.setSt b).sp = s.sp := rfl
@[simp] theorem State.setSt_stack (s : State) (b : Byte) : (s.setSt b).stack = s.stack := rfl
@[simp] theorem State.setSt_mem (s : State) (b : Byte) : (s.setSt b).mem = s.mem := rfl
@[simp] theorem State.setSt_fb (s : State) (b : Byte) : (s.setSt b).fb = s.fb := rfl
@[simp] theorem State.setSt_dt (s : State) (b : Byte) : (s.setSt b).dt = s.dt := rfl
@[simp] theorem State.setSt_st (s : State) (b : Byte) : (s.setSt b).st = b := rfl
@[simp] theorem State.setSt_keys (s : State) (b : Byte) : (s.setSt b).keys = s.keys := rfl
@[simp] theorem State.setSt_rd (s : State) (b : Byte) : (s.setSt b).rd = s.rd := rfl
@[simp] theorem State.setSt_halt (s : State) (b : Byte) : (s.setSt b).halt = s.halt := rfl
@[simp] theorem State.setSt_font (s : State) (b : Byte) : (s.setSt b).font = s.font := rfl
@[simp] theorem State.setSt_rnd (s : State) (b : Byte) : (s.setSt b).rnd = s.rnd := rfl
@[simp] theorem State.setSt_draws (s : State) (b : Byte) : (s.setSt b).draws = s.draws := rfl
@[simp] theorem State.setSt_reports (s : State) (b : Byte) : (s.setSt b).reports = s.reports := rfl
@[simp] theorem State.getV_setSt (s : State) (b : Byte) (r : Nibble) : (s.setSt b).getV r = s.getV r := rfl
@[simp] theorem State.readByte_setSt (s : State) (b : Byte) (c : Nat) : (s.setSt b).readByte c = s.readByte c := rfl
@[simp] theorem State.keyDown_setSt (s : State) (b : Byte) (k : Nibble) : (s.setSt b).keyDown k = s.keyDown k := rfl

/-! ### advance -/

@[simp] theorem State.advance_v (s : State) : s.advance.v = s.v := rfl
@[simp] theorem State.advance_i (s : State) : s.advance.i = s.i := rfl
@[simp] theorem State.advance_pc (s : State) : s.advance.pc = s.pc + 2 := rfl
@[simp] theorem State.advance_sp (s : State) : s.advance.sp = s.sp := rfl
@[simp] theorem State.advance_stack (s : State) : s.advance.stack = s.stack := rfl
@[simp] theorem State.advance_mem (s : State) : s.advance.mem = s.mem := rfl
@[simp] theorem State.advance_fb (s : State) : s.advance.fb = s.fb := rfl
@[simp] theorem State.advance_dt (s : State) : s.advance.dt = s.dt := rfl
@[simp] theorem State.advance_st (s : State) : s.advance.st = s.st := rfl
@[simp] theorem State.advance_keys (s : State) : s.advance.keys = s.keys := rfl
@[simp] theorem State.advance_rd (s : State) : s.advance.rd = s.rd := rfl
@[simp] theorem State.advance_halt (s : State) : s.advance.halt = s.halt := rfl
@[simp] theorem State.advance_font (s : State) : s.advance.font = s.font := rfl
@[simp] theorem State.advance_rnd (s : State) : s.advance.rnd = s.rnd := rfl
@[simp] theorem State.advance_draws (s : State) : s.advance.draws = s.draws := rfl
@[simp] theorem State.advance_reports (s : State) : s.advance.reports = s.reports := rfl
@[simp] theorem State.getV_advance (s : State) (r : Nibble) : s.advance.getV r = s.getV r := rfl
@[simp] theorem State.readByte_advance (s : State) (c : Nat) : s.advance.readByte c = s.readByte c := rfl
@[simp] theorem State.keyDown_advance (s : State) (k : Nibble) : s.advance.keyDown k = s.keyDown k := rfl

/-! ### skipIf -/

@[simp] theorem State.skipIf_v (s : State) (q : Bool) : (s.skipIf q).v = s.v := rfl
@[simp] theorem State.skipIf_i (s : State) (q : Bool) : (s.skipIf q).i = s.i := rfl
@[simp] theorem State.skipIf_pc (s : State) (q : Bool) : (s.skipIf q).pc = if q then s.pc + 4 else s.pc + 2 := rfl
@[simp] theorem State.skipIf_sp (s : State) (q : Bool) : (s.skipIf q).sp = s.sp := rfl
@[simp] theorem State.skipIf_stack (s : State) (q : Bool) : (s.skipIf q).stack = s.stack := rfl
@[simp] theorem State.skipIf_mem (s : State) (q : Bool) : (s.skipIf q).mem = s.mem := rfl
@[simp] theorem State.skipIf_fb (s : State) (q : Bool) : (s.skipIf q).fb = s.fb := rfl
@[simp] theorem State.skipIf_dt (s : State) (q : Bool) : (s.skipIf q).dt = s.dt := rfl
@[simp] theorem State.skipIf_st (s : State) (q : Bool) : (s.skipIf q).st = s.st := rfl
@[simp] theorem State.skipIf_keys (s : State) (q : Bool) : (s.skipIf q).keys = s.keys := rfl
@[simp] theorem State.skipIf_rd (s : State) (q : Bool) : (s.skipIf q).rd = s.rd := rfl
@[simp] theorem State.skipIf_halt (s : State) (q : Bool) : (s.skipIf q).halt = s.halt := rfl
@[simp] theorem State.skipIf_font (s : State) (q : Bool) : (s.skipIf q).font = s.font := rfl
@[simp] theorem State.skipIf_rnd (s : State) (q : Bool) : (s.skipIf q).rnd = s.rnd := rfl
@[simp] theorem State.skipIf_draws (s : State) (q : Bool) : (s.skipIf q).draws = s.draws := rfl
@[simp] theorem State.skipIf_reports (s : State) (q : Bool) : (s.skipIf q).reports = s.reports := rfl
@[simp] theorem State.getV_skipIf (s : State) (q : Bool) (r : Nibble) : (s.skipIf q).getV r = s.getV r := rfl
@[simp] theorem State.readByte_skipIf (s : State) (q : Bool) (c : Nat) : (s.skipIf q).readByte c = s.readByte c := rfl
@[simp] theorem State.keyDown_skipIf (s : State) (q : Bool) (k : Nibble) : (s.skipIf q).keyDown k = s.keyDown k := rfl

/-! ### jumpTo -/

@[simp] theorem State.jumpTo_v (s : State) (w : Word) : (s.jumpTo w).v = s.v := rfl
@[simp] theorem State.jumpTo_i (s : State) (w : Word) : (s.jumpTo w).i = s.i := rfl
@[simp] theorem State.jumpTo_pc (s : State) (w : Word) : (s.jumpTo w).pc = w := rfl
@[simp] theorem State.jumpTo_sp (s : State) (w : Word) : (s.jumpTo w).sp = s.sp := rfl
@[simp] theorem State.jumpTo_stack (s : State) (w : Word) : (s.jumpTo w).stack = s.stack := rfl
@[simp] theorem State.jumpTo_mem (s : State) (w : Word) : (s.jumpTo w).mem = s.mem := rfl
@[simp] theorem State.jumpTo_fb (s : State) (w : Word) : (s.jumpTo w).fb = s.fb := rfl
@[simp] theorem State.jumpTo_dt (s : State) (w : Word) : (s.jumpTo w).dt = s.dt := rfl
@[simp] theorem State.jumpTo_st (s : State) (w : Word) : (s.jumpTo w).st = s.st := rfl
@[simp] theorem State.jumpTo_keys (s : State) (w : Word) : (s.jumpTo w).keys = s.keys := rfl
@[simp] theorem State.jumpTo_rd (s : State) (w : Word) : (s.jumpTo w).rd = s.rd := rfl
@[simp] theorem State.jumpTo_halt (s : State) (w : Word) : (s.jumpTo w).halt = s.halt := rfl
@[simp] theorem State.jumpTo_font (s : State) (w : Word) : (s.jumpTo w).font = s.font := rfl
@[simp] theorem State.jumpTo_rnd (s : State) (w : Word) : (s.jumpTo w).rnd = s.rnd := rfl
@[simp] theorem State.jumpTo_draws (s : State) (w : Word) : (s.jumpTo w).draws = s.draws := rfl
@[simp] theorem State.jumpTo_reports (s : State) (w : Word) : (s.jumpTo w).reports = s.reports := rfl
@[simp] theorem State.getV_jumpTo (s : State) (w : Word) (r : Nibble) : (s.jumpTo w).getV r = s.getV r := rfl
@[simp] theorem State.readByte_jumpTo (s : State) (w : Word) (c : Nat) : (s.jumpTo w).readByte c = s.readByte c := rfl
@[simp] theorem State.keyDown_jumpTo (s : State) (w : Word) (k : Nibble) : (s.jumpTo w).keyDown k = s.keyDown k := rfl

/-! ### enterHalt -/

@[simp] theorem State.enterHalt_v (s : State) (e : Fatal) : (s.enterHalt e).v = s.v := rfl
@[simp] theorem State.enterHalt_i (s : State) (e : Fatal) : (s.enterHalt e).i = s.i := rfl
@[simp] theorem State.enterHalt_pc (s : State) (e : Fatal) : (s.enterHalt e).pc = s.pc := rfl
@[simp] theorem State.enterHalt_sp (s : State) (e : Fatal) : (s.enterHalt e).sp = s.sp := rfl
@[simp] theorem State.enterHalt_stack (s : State) (e : Fatal) : (s.enterHalt e).stack = s.stack := rfl
@[simp] theorem State.enterHalt_mem (s : State) (e : Fatal) : (s.enterHalt e).mem = s.mem := rfl
@[simp] theorem State.enterHalt_fb (s : State) (e : Fatal) : (s.enterHalt e).fb = s.fb := rfl
@[simp] theorem State.enterHalt_dt (s : State) (e : Fatal) : (s.enterHalt e).dt = s.dt := rfl
@[simp] theorem State.enterHalt_st (s : State) (e : Fatal) : (s.enterHalt e).st = s.st := rfl
@[simp] theorem State.enterHalt_keys (s : State) (e : Fatal) : (s.enterHalt e).keys = s.keys := rfl
@[simp] theorem State.enterHalt_rd (s : State) (e : Fatal) : (s.enterHalt e).rd = s.rd := rfl
@[simp] theorem State.enterHalt_halt (s : State) (e : Fatal) : (s.enterHalt e).halt = some e := rfl
@[simp] theorem State.enterHalt_font (s : State) (e : Fatal) : (s.enterHalt e).font = s.font := rfl
@[simp] theorem State.enterHalt_rnd (s : State) (e : Fatal) : (s.enterHalt e).rnd = s.rnd := rfl
@[simp] theorem State.enterHalt_draws (s : State) (e : Fatal) : (s.enterHalt e).draws = s.draws := rfl
@[simp] theorem State.enterHalt_reports (s : State) (e : Fatal) : (s.enterHalt e).reports = s.reports := rfl
@[simp] theorem State.getV_enterHalt (s : State) (e : Fatal) (r : Nibble) : (s.enterHalt e).getV r = s.getV r := rfl
@[simp] theorem State.readByte_enterHalt (s : State) (e : Fatal) (c : Nat) : (s.enterHalt e).readByte c = s.readByte c := rfl
@[simp] theorem State.keyDown_enterHalt (s : State) (e : Fatal) (k : Nibble) : (s.enterHalt e).keyDown k = s.keyDown k := rfl

/-! ### tick -/

@[simp] theorem State.tick_v (s : State) : s.tick.v = s.v := rfl
@[simp] theorem State.tick_i (s : State) : s.tick.i = s.i := rfl
@[simp] theorem State.tick_pc (s : State) : s.tick.pc = s.pc := rfl
@[simp] theorem State.tick_sp (s : State) : s.tick.sp = s.sp := rfl
@[simp] theorem State.tick_stack (s : State) : s.tick.stack = s.stack := rfl
@[simp] theorem State.tick_mem (s : State) : s.tick.mem = s.mem := rfl
@[simp] theorem State.tick_fb (s : State) : s.tick.fb = s.fb := rfl
@[simp] theorem State.tick_dt (s : State) : s.tick.dt = if 0 < s.dt then s.dt - 1 else s.dt := rfl
@[simp] theorem State.tick_st (s : State) : s.tick.st = if 0 < s.st then s.st - 1 else s.st := rfl
@[simp] theorem State.tick_keys (s : State) : s.tick.keys = s.keys := rfl
@[simp] theorem State.tick_rd (s : State) : s.tick.rd = s.rd := rfl
@[simp] theorem State.tick_halt (s : State) : s.tick.halt = s.halt := rfl
@[simp] theorem State.tick_font (s : State) : s.tick.font = s.font := rfl
@[simp] theorem State.tick_rnd (s : State) : s.tick.rnd = s.rnd := rfl
@[simp] theorem State.tick_draws (s : State) : s.tick.draws = s.draws := rfl
@[simp] theorem State.tick_reports (s : State) : s.tick.reports = s.reports := rfl
@[simp] theorem State.getV_tick (s : State) (r : Nibble) : s.tick.getV r = s.getV r := rfl
@[simp] theorem State.readByte_tick (s : State) (c : Nat) : s.tick.readByte c = s.readByte c := rfl
@[simp] theorem State.keyDown_tick (s : State) (k : Nibble) : s.tick.keyDown k = s.keyDown k := rfl

/-! ### drawNext -/

@[simp] theorem State.drawNext_v (s : State) : s.drawNext.v = s.v := rfl
@[simp] theorem State.drawNext_i (s : State) : s.drawNext.i = s.i := rfl
@[simp] theorem State.drawNext_pc (s : State) : s.drawNext.pc = s.pc := rfl
@[simp] theorem State.drawNext_sp (s : State) : s.drawNext.sp = s.sp := rfl
@[simp] theorem State.drawNext_stack (s : State) : s.drawNext.stack = s.stack := rfl
@[simp] theorem State.drawNext_mem (s : State) : s.drawNext.mem = s.mem := rfl
@[simp] theorem State.drawNext_fb (s : State) : s.drawNext.fb = s.fb := rfl
@[simp] theorem State.drawNext_dt (s : State) : s.drawNext.dt = s.dt := rfl
@[simp] theorem State.drawNext_st (s : State) : s.drawNext.st = s.st := rfl
@[simp] theorem State.drawNext_keys (s : State) : s.drawNext.keys = s.keys := rfl
@[simp] theorem State.drawNext_rd (s : State) : s.drawNext.rd = s.rd := rfl
@[simp] theorem State.drawNext_halt (s : State) : s.drawNext.halt = s.halt := rfl
@[simp] theorem State.drawNext_font (s : State) : s.drawNext.font = s.font := rfl
@[simp] theorem State.drawNext_rnd (s : State) : s.drawNext.rnd = Config.randomByte s.draws := rfl
@[simp] theorem State.drawNext_draws (s : State) : s.drawNext.draws = s.draws + 1 := rfl
@[simp] theorem State.drawNext_reports (s : State) : s.drawNext.reports = s.reports := rfl
@[simp] theorem State.getV_drawNext (s : State) (r : Nibble) : s.drawNext.getV r = s.getV r := rfl
@[simp] theorem State.readByte_drawNext (s : State) (c : Nat) : s.drawNext.readByte c = s.readByte c := rfl
@[simp] theorem State.keyDown_drawNext (s : State) (k : Nibble) : s.drawNext.keyDown k = s.keyDown k := rfl

/-! ### reportUnrecognized -/

@[simp] theorem State.reportUnrecognized_v (s : State) (w : Word) : (s.reportUnrecognized w).v = s.v := rfl
@[simp] theorem State.reportUnrecognized_i (s : State) (w : Word) : (s.reportUnrecognized w).i = s.i := rfl
@[simp] theorem State.reportUnrecognized_pc (s : State) (w : Word) : (s.reportUnrecognized w).pc = s.pc + 2 := rfl
@[simp] theorem State.reportUnrecognized_sp (s : State) (w : Word) : (s.reportUnrecognized w).sp = s.sp := rfl
@[simp] theorem State.reportUnrecognized_stack (s : State) (w : Word) : (s.reportUnrecognized w).stack = s.stack := rfl
@[simp] theorem State.reportUnrecognized_mem (s : State) (w : Word) : (s.reportUnrecognized w).mem = s.mem := rfl
@[simp] theorem State.reportUnrecognized_fb (s : State) (w : Word) : (s.reportUnrecognized w).fb = s.fb := rfl
@[simp] theorem State.reportUnrecognized_dt (s : State) (w : Word) : (s.reportUnrecognized w).dt = s.dt := rfl
@[simp] theorem State.reportUnrecognized_st (s : State) (w : Word) : (s.reportUnrecognized w).st = s.st := rfl
@[simp] theorem State.reportUnrecognized_keys (s : State) (w : Word) : (s.reportUnrecognized w).keys = s.keys := rfl
@[simp] theorem State.reportUnrecognized_rd (s : State) (w : Word) : (s.reportUnrecognized w).rd = s.rd := rfl
@[simp] theorem State.reportUnrecognized_halt (s : State) (w : Word) : (s.reportUnrecognized w).halt = s.halt := rfl
@[simp] theorem State.reportUnrecognized_font (s : State) (w : Word) : (s.reportUnrecognized w).font = s.font := rfl
@[simp] theorem State.reportUnrecognized_rnd (s : State) (w : Word) : (s.reportUnrecognized w).rnd = s.rnd := rfl
@[simp] theorem State.reportUnrecognized_draws (s : State) (w : Word) : (s.reportUnrecognized w).draws = s.draws := rfl
@[simp] theorem State.reportUnrecognized_reports (s : State) (w : Word) : (s.reportUnrecognized w).reports = ⟨s.pc, w⟩ :: s.reports := rfl
@[simp] theorem State.getV_reportUnrecognized (s : State) (w : Word) (r : Nibble) : (s.reportUnrecognized w).getV r = s.getV r := rfl
@[simp] theorem State.readByte_reportUnrecognized (s : State) (w : Word) (c : Nat) : (s.reportUnrecognized w).readByte c = s.readByte c := rfl
@[simp] theorem State.keyDown_reportUnrecognized (s : State) (w : Word) (k : Nibble) : (s.reportUnrecognized w).keyDown k = s.keyDown k := rfl

/-! ### writeByte -/

@[simp] theorem State.writeByte_v (s : State) (a : Nat) (b : Byte) : (s.writeByte a b).v = s.v := rfl
@[simp] theorem State.writeByte_i (s : State) (a : Nat) (b : Byte) : (s.writeByte a b).i = s.i := rfl
@[simp] theorem State.writeByte_pc (s : State) (a : Nat) (b : Byte) : (s.writeByte a b).pc = s.pc := rfl
@[simp] theorem State.writeByte_sp (s : State) (a : Nat) (b : Byte) : (s.writeByte a b).sp = s.sp := rfl
@[simp] theorem State.writeByte_stack (s : State) (a : Nat) (b : Byte) : (s.writeByte a b).stack = s.stack := rfl
@[simp] theorem State.writeByte_mem (s : State) (a : Nat) (b : Byte) : (s.writeByte a b).mem = Memory.write s.font s.mem (a12 a) b := rfl
@[simp] theorem State.writeByte_fb (s : State) (a : Nat) (b : Byte) : (s.writeByte a b).fb = s.fb := rfl
@[simp] theorem State.writeByte_dt (s : State) (a : Nat) (b : Byte) : (s.writeByte a b).dt = s.dt := rfl
@[simp] theorem State.writeByte_st (s : State) (a : Nat) (b : Byte) : (s.writeByte a b).st = s.st := rfl
@[simp] theorem State.writeByte_keys (s : State) (a : Nat) (b : Byte) : (s.writeByte a b).keys = s.keys := rfl
@[simp] theorem State.writeByte_rd (s : State) (a : Nat) (b : Byte) : (s.writeByte a b).rd = s.rd := rfl
@[simp] theorem State.writeByte_halt (s : State) (a : Nat) (b : Byte) : (s.writeByte a b).halt = s.halt := rfl
@[simp] theorem State.writeByte_font (s : State) (a : Nat) (b : Byte) : (s.writeByte a b).font = s.font := rfl
@[simp] theorem State.writeByte_rnd (s : State) (a : Nat) (b : Byte) : (s.writeByte a b).rnd = s.rnd := rfl
@[simp] theorem State.writeByte_draws (s : State) (a : Nat) (b : Byte) : (s.writeByte a b).draws = s.draws := rfl
@[simp] theorem State.writeByte_reports (s : State) (a : Nat) (b : Byte) : (s.writeByte a b).reports = s.reports := rfl
@[simp] theorem State.getV_writeByte (s : State) (a : Nat) (b : Byte) (r : Nibble) : (s.writeByte a b).getV r = s.getV r := rfl
@[simp] theorem State.keyDown_writeByte (s : State) (a : Nat) (b : Byte) (k : Nibble) : (s.writeByte a b).keyDown k = s.keyDown k := rfl

end Sys2Proof.Machine
end

