-- ==== Sys2Proof/Laws/Memory.lean ====
section
/-! SUPPORT. What the memory operations do: read after write, the canonical form, and storing a run of bytes. -/

namespace Sys2Proof.Machine

theorem a12_eq (a : Nat) : a12 a = a % 4096 := rfl

theorem a12_lt (a : Nat) : a12 a < 4096 := Nat.mod_lt _ (by decide)

@[simp] theorem a12_a12 (a : Nat) : a12 (a12 a) = a12 a := Nat.mod_mod _ _

/-! ### One byte -/

theorem Memory.find_insert (c : Host.Cell) (m : Memory) (a : Nat) (hm : ∀ d ∈ m, d.1 ≠ c.1) :
    (Memory.insert c m).find? (fun d => d.1 == a) = if c.1 = a then some c else m.find? (fun d => d.1 == a) := by
  induction m with
  | nil => by_cases h : c.1 = a <;> simp [Memory.insert, h]
  | cons d m ih =>
    have hd : d.1 ≠ c.1 := hm d (by simp)
    have ih := ih (fun e he => hm e (by simp [he]))
    unfold Memory.insert
    split
    · by_cases h : c.1 = a <;> simp [h]
    · by_cases h : d.1 = a
      · have : c.1 ≠ a := fun e => hd (h.trans e.symm)
        simp [h, this]
      · simp [h, ih]

theorem Memory.find_filter (m : Memory) (a b : Nat) :
    (m.filter (fun c => c.1 != a)).find? (fun c => c.1 == b)
      = if b = a then none else m.find? (fun c => c.1 == b) := by
  rw [List.find?_filter]
  by_cases h : b = a
  · subst h; simp
  · rw [if_neg h]
    congr 1
    funext c
    by_cases hc : c.1 = b <;> simp [hc, h]

/-- A read gives the byte just written there, and every other byte as before. -/
theorem Memory.read_write (f : Font) (m : Memory) (a b : Nat) (v : Byte) :
    Memory.read f (Memory.write f m a v) b = if b = a then v else Memory.read f m b := by
  have hm : ∀ d ∈ m.filter (fun c => c.1 != a), d.1 ≠ a := by
    intro d hd; simpa using (List.mem_filter.1 hd).2
  unfold Memory.write
  by_cases hv : v = resetByte f a
  · rw [if_pos hv]
    unfold Memory.read
    rw [Memory.find_filter]
    by_cases h : b = a
    · simp [h, hv]
    · simp [h]
  · rw [if_neg hv]
    unfold Memory.read
    rw [Memory.find_insert _ _ _ hm, Memory.find_filter]
    by_cases h : b = a
    · simp [h]
    · have h' : ¬ a = b := fun e => h e.symm
      simp [h, h']

/-! ### The canonical form -/

theorem Memory.mem_insert (c d : Host.Cell) (m : Memory) : d ∈ Memory.insert c m ↔ d = c ∨ d ∈ m := by
  induction m with
  | nil => simp [Memory.insert]
  | cons e m ih =>
    unfold Memory.insert
    split
    · simp
    · simp only [List.mem_cons, ih]; tauto

theorem Memory.pairwise_insert (c : Host.Cell) (m : Memory) (hm : m.Pairwise (fun c d => c.1 < d.1))
    (hc : ∀ d ∈ m, d.1 ≠ c.1) : (Memory.insert c m).Pairwise (fun c d => c.1 < d.1) := by
  induction m with
  | nil => simp [Memory.insert]
  | cons e m ih =>
    have hm' := List.pairwise_cons.1 hm
    have he : e.1 ≠ c.1 := hc e (by simp)
    unfold Memory.insert
    split
    next h =>
      refine List.pairwise_cons.2 ⟨fun d hd => ?_, hm⟩
      rcases List.mem_cons.1 hd with rfl | hd
      · exact h
      · exact Nat.lt_trans h (hm'.1 d hd)
    next h =>
      refine List.pairwise_cons.2 ⟨fun d hd => ?_, ih hm'.2 (fun d hd => hc d (by simp [hd]))⟩
      rcases (Memory.mem_insert c d m).1 hd with rfl | hd
      · omega
      · exact hm'.1 d hd

/-- A write keeps the canonical form. -/
theorem Memory.wf_write (f : Font) (m : Memory) (a : Nat) (v : Byte) (ha : a < 4096) (hm : Memory.wf f m) :
    Memory.wf f (Memory.write f m a v) := by
  have hf : Memory.wf f (m.filter (fun c => c.1 != a)) :=
    ⟨hm.1.filter _, fun c hc => hm.2 c (List.mem_filter.1 hc).1⟩
  unfold Memory.write
  by_cases hv : v = resetByte f a
  · rw [if_pos hv]; exact hf
  · rw [if_neg hv]
    refine ⟨Memory.pairwise_insert _ _ hf.1 (fun d hd => by simpa using (List.mem_filter.1 hd).2), fun c hc => ?_⟩
    rcases (Memory.mem_insert _ _ _).1 hc with rfl | hc
    · exact ⟨ha, hv⟩
    · exact hf.2 c hc

/-- Repairing the reserved area keeps the canonical form. -/
theorem Memory.wf_repairReserved (f : Font) (m : Memory) (hm : Memory.wf f m) :
    Memory.wf f (Memory.repairReserved m) :=
  ⟨hm.1.filter _, fun c hc => hm.2 c (List.mem_filter.1 hc).1⟩

/-- The memory of the state after reset is canonical. -/
theorem State.reset_wf : Memory.wf State.reset.font State.reset.mem := ⟨List.Pairwise.nil, by simp [State.reset]⟩

/-- After the repair the reserved area reads as after `Create`, and the program area as before. -/
theorem Memory.read_repairReserved (f : Font) (m : Memory) (a : Nat) :
    Memory.read f (Memory.repairReserved m) a = if a < 0x200 then resetByte f a else Memory.read f m a := by
  have key : (Memory.repairReserved m).find? (fun c => c.1 == a)
      = if a < 0x200 then none else m.find? (fun c => c.1 == a) := by
    unfold Memory.repairReserved
    induction m with
    | nil => simp
    | cons c m ih =>
      by_cases hc : Config.progBase ≤ c.1 <;> by_cases ha : c.1 = a <;>
        simp_all [Config.progBase]
  unfold Memory.read
  rw [key]
  by_cases h : a < 0x200 <;> simp [h]

/-! ### The state's memory -/

/-- `MemRead` after `MemWrite`. -/
theorem State.readByte_writeByte (s : State) (a c : Nat) (b : Byte) :
    (s.writeByte a b).readByte c = if a12 c = a12 a then b else s.readByte c :=
  Memory.read_write _ _ _ _ _

theorem State.readByte_a12 (s : State) (a : Nat) : s.readByte (a12 a) = s.readByte a := by
  simp [State.readByte]

theorem State.wf_writeByte (s : State) (a : Nat) (b : Byte) (h : Memory.wf s.font s.mem) :
    Memory.wf (s.writeByte a b).font (s.writeByte a b).mem :=
  Memory.wf_write _ _ _ _ (a12_lt a) h

/-! ### A run of bytes -/

/-- Storing a run of bytes changes memory alone. -/
theorem State.writeBytes_eq (s : State) (a : Nat) (bytes : List Byte) :
    s.writeBytes a bytes = { s with mem := (s.writeBytes a bytes).mem } := by
  induction bytes generalizing s a with
  | nil => rfl
  | cons b bytes ih => rw [State.writeBytes, ih]; rfl

/-- The memory a run of stores leaves depends on the memory and the font alone. -/
theorem State.writeBytes_mem_congr (s q : State) (a : Nat) (bytes : List Byte) (hf : s.font = q.font)
    (hm : s.mem = q.mem) : (s.writeBytes a bytes).mem = (q.writeBytes a bytes).mem := by
  induction bytes generalizing s q a with
  | nil => exact hm
  | cons b bytes ih => exact ih _ _ _ hf (by simp [State.writeByte, hf, hm])

@[simp] theorem State.writeBytes_v (s : State) (a : Nat) (bs : List Byte) : (s.writeBytes a bs).v = s.v := by
  rw [State.writeBytes_eq]
@[simp] theorem State.writeBytes_i (s : State) (a : Nat) (bs : List Byte) : (s.writeBytes a bs).i = s.i := by
  rw [State.writeBytes_eq]
@[simp] theorem State.writeBytes_pc (s : State) (a : Nat) (bs : List Byte) : (s.writeBytes a bs).pc = s.pc := by
  rw [State.writeBytes_eq]
@[simp] theorem State.writeBytes_sp (s : State) (a : Nat) (bs : List Byte) : (s.writeBytes a bs).sp = s.sp := by
  rw [State.writeBytes_eq]
@[simp] theorem State.writeBytes_stack (s : State) (a : Nat) (bs : List Byte) :
    (s.writeBytes a bs).stack = s.stack := by
  rw [State.writeBytes_eq]
@[simp] theorem State.writeBytes_fb (s : State) (a : Nat) (bs : List Byte) : (s.writeBytes a bs).fb = s.fb := by
  rw [State.writeBytes_eq]
@[simp] theorem State.writeBytes_dt (s : State) (a : Nat) (bs : List Byte) : (s.writeBytes a bs).dt = s.dt := by
  rw [State.writeBytes_eq]
@[simp] theorem State.writeBytes_st (s : State) (a : Nat) (bs : List Byte) : (s.writeBytes a bs).st = s.st := by
  rw [State.writeBytes_eq]
@[simp] theorem State.writeBytes_keys (s : State) (a : Nat) (bs : List Byte) : (s.writeBytes a bs).keys = s.keys := by
  rw [State.writeBytes_eq]
@[simp] theorem State.writeBytes_rd (s : State) (a : Nat) (bs : List Byte) : (s.writeBytes a bs).rd = s.rd := by
  rw [State.writeBytes_eq]
@[simp] theorem State.writeBytes_halt (s : State) (a : Nat) (bs : List Byte) : (s.writeBytes a bs).halt = s.halt := by
  rw [State.writeBytes_eq]
@[simp] theorem State.writeBytes_font (s : State) (a : Nat) (bs : List Byte) : (s.writeBytes a bs).font = s.font := by
  rw [State.writeBytes_eq]
@[simp] theorem State.writeBytes_rnd (s : State) (a : Nat) (bs : List Byte) : (s.writeBytes a bs).rnd = s.rnd := by
  rw [State.writeBytes_eq]
@[simp] theorem State.writeBytes_draws (s : State) (a : Nat) (bs : List Byte) :
    (s.writeBytes a bs).draws = s.draws := by
  rw [State.writeBytes_eq]
@[simp] theorem State.writeBytes_reports (s : State) (a : Nat) (bs : List Byte) :
    (s.writeBytes a bs).reports = s.reports := by
  rw [State.writeBytes_eq]
@[simp] theorem State.getV_writeBytes (s : State) (a : Nat) (bs : List Byte) (r : Nibble) :
    (s.writeBytes a bs).getV r = s.getV r := by
  simp [State.getV]

/-- A byte outside the run stored reads as before. -/
theorem State.readByte_writeBytes_outside (s : State) (a c : Nat) (bytes : List Byte)
    (h : ∀ k, k < bytes.length → a12 c ≠ a12 (a + k)) : (s.writeBytes a bytes).readByte c = s.readByte c := by
  induction bytes generalizing s a with
  | nil => rfl
  | cons b bytes ih =>
    rw [State.writeBytes, ih _ _ (fun k hk => by
      have := h (k + 1) (by simpa using hk)
      rwa [show a + 1 + k = a + (k + 1) by omega]),
      State.readByte_writeByte, if_neg (by simpa using h 0 (by simp))]

/-- Byte `k` of the run stored reads back, as long as the run does not lap the whole memory. -/
theorem State.readByte_writeBytes_inside (s : State) (a k : Nat) (bytes : List Byte) (hk : k < bytes.length)
    (hn : bytes.length ≤ 4096) : (s.writeBytes a bytes).readByte (a + k) = bytes[k] := by
  induction bytes generalizing s a k with
  | nil => simp at hk
  | cons b bytes ih =>
    rw [State.writeBytes]
    cases k with
    | zero =>
      rw [State.readByte_writeBytes_outside _ _ _ _ (fun j hj => by
        simp only [List.length_cons] at hn
        simp only [a12_eq]; omega), State.readByte_writeByte]
      simp
    | succ k =>
      have := ih (s.writeByte a b) (a + 1) k (by simpa using hk) (by simp at hn; omega)
      rw [show a + (k + 1) = a + 1 + k by omega, this]
      simp

/-- Storing a run of bytes keeps the canonical form. -/
theorem State.wf_writeBytes (s : State) (a : Nat) (bytes : List Byte) (h : Memory.wf s.font s.mem) :
    Memory.wf (s.writeBytes a bytes).font (s.writeBytes a bytes).mem := by
  induction bytes generalizing s a with
  | nil => exact h
  | cons b bytes ih => exact ih _ _ (State.wf_writeByte s a b h)

@[simp] theorem State.length_readBytes (s : State) (a n : Nat) : (s.readBytes a n).length = n := by
  simp [State.readBytes]

@[simp] theorem State.getElem_readBytes (s : State) (a n k : Nat) (h : k < (s.readBytes a n).length) :
    (s.readBytes a n)[k] = s.readByte (a + k) := by
  simp [State.readBytes]

end Sys2Proof.Machine
end

