-- ==== Sys2Proof/Laws/Registers.lean ====
section
/-! SUPPORT. What the register operations and the operand forms do. -/

namespace Sys2Proof.Machine

/-! ### Registers -/

/-- A register read after a register write: no register is hard-wired and none aliases another (R21). -/
theorem State.getV_setV (s : State) (x r : Nibble) (b : Byte) :
    (s.setV x b).getV r = if r = x then b else s.getV r := by
  unfold State.getV State.setV
  rw [Vector.getElem_set]
  by_cases h : r = x
  · subst h; simp
  · have : x.toNat ≠ r.toNat := fun e => h (BitVec.eq_of_toNat_eq e.symm)
    rw [if_neg this, if_neg h]

@[simp] theorem State.getV_setV_same (s : State) (x : Nibble) (b : Byte) : (s.setV x b).getV x = b := by
  simp [State.getV_setV]

theorem State.getV_setV_ne (s : State) (x r : Nibble) (b : Byte) (h : r ≠ x) : (s.setV x b).getV r = s.getV r := by
  simp [State.getV_setV, h]

/-- Two states with the same registers have the same `v`. -/
theorem State.v_ext (s t : State) (h : ∀ r, s.getV r = t.getV r) : s.v = t.v := by
  apply Vector.ext
  intro k hk
  have := h (BitVec.ofNat 4 k)
  simpa [State.getV, Nat.mod_eq_of_lt hk] using this

/-- The register whose number is `k`. -/
theorem ofNat4_eq_iff (r : Nibble) (k : Nat) (hk : k < 16) : r = BitVec.ofNat 4 k ↔ r.toNat = k := by
  constructor
  · rintro rfl; simp; omega
  · intro h; apply BitVec.eq_of_toNat_eq; simp; omega

/-! ### Loading a block of registers -/

/-- Loading registers changes registers alone. -/
theorem State.setRegs_eq (s : State) (k : Nat) (bytes : List Byte) :
    s.setRegs k bytes = { s with v := (s.setRegs k bytes).v } := by
  induction bytes generalizing s k with
  | nil => rfl
  | cons b bytes ih => rw [State.setRegs, ih]; rfl

/-- The registers a block load leaves depend on the registers and the bytes alone. -/
theorem State.setRegs_v_congr (s q : State) (k : Nat) (bytes : List Byte) (h : s.v = q.v) :
    (s.setRegs k bytes).v = (q.setRegs k bytes).v := by
  induction bytes generalizing s q k with
  | nil => exact h
  | cons b bytes ih => exact ih _ _ _ (by simp [State.setV, h])

/-- Registers `k .. k + length - 1` get the bytes in turn; the others keep their values. -/
theorem State.getV_setRegs (s : State) (k : Nat) (bytes : List Byte) (hk : k + bytes.length ≤ 16) (r : Nibble) :
    (s.setRegs k bytes).getV r
      = if h : k ≤ r.toNat ∧ r.toNat < k + bytes.length then bytes[r.toNat - k]'(by omega) else s.getV r := by
  induction bytes generalizing s k with
  | nil => simp [State.setRegs]
  | cons b bytes ih =>
    simp only [List.length_cons] at hk
    rw [State.setRegs, ih _ _ (by omega), State.getV_setV]
    by_cases h1 : r.toNat = k
    · have hr : r = BitVec.ofNat 4 k := (ofNat4_eq_iff r k (by omega)).2 h1
      rw [dif_neg (by omega), if_pos hr, dif_pos (by simp; omega)]
      simp [h1]
    · have hr : r ≠ BitVec.ofNat 4 k := fun e => h1 ((ofNat4_eq_iff r k (by omega)).1 e)
      rw [if_neg hr]
      by_cases h2 : k + 1 ≤ r.toNat ∧ r.toNat < k + 1 + bytes.length
      · rw [dif_pos h2, dif_pos (by simp; omega)]
        simp only [show r.toNat - k = (r.toNat - (k + 1)) + 1 by omega, List.getElem_cons_succ]
      · rw [dif_neg h2, dif_neg (by simp; omega)]

/-! ### Operand forms -/

theorem toNat_zext16 (nnn : Addr12) : (zext16 nnn).toNat = nnn.toNat := by
  have := nnn.isLt
  simp [zext16]; omega

theorem toNat_zextByte (b : Byte) : (zextByte b).toNat = b.toNat := by
  have := b.isLt
  simp [zextByte]; omega

theorem toNat_keyByte (k : Nibble) : (keyByte k).toNat = k.toNat := by
  have := k.isLt
  simp [keyByte]; omega

theorem toNat_keyOf (b : Byte) : (keyOf b).toNat = b.toNat % 16 := by simp [keyOf]

/-- `FONT_BASE + 5 * d` never reaches `2^16`. -/
theorem toNat_glyphAddr (f : Font) (d : Byte) : (glyphAddr f d).toNat = f.base.val + 5 * d.toNat := by
  have := f.base.isLt
  have := d.isLt
  simp [glyphAddr, Config.glyphBytes]; omega

@[simp] theorem length_digits (b : Byte) : (digits b).length = 3 := rfl

@[simp] theorem State.length_regBlock (s : State) (x : Nibble) : (s.regBlock x).length = x.toNat + 1 := by
  simp [State.regBlock]

@[simp] theorem State.getElem_regBlock (s : State) (x : Nibble) (k : Nat) (h : k < (s.regBlock x).length) :
    (s.regBlock x)[k] = s.getV (BitVec.ofNat 4 k) := by
  simp [State.regBlock]

/-! ### Keys -/

/-- The pressed keys are exactly the keys that are down. -/
theorem State.mem_pressedKeys (s : State) (k : Nibble) : k ∈ s.pressedKeys ↔ s.keyDown k = true := by
  unfold State.pressedKeys
  rw [List.mem_filter]
  refine ⟨fun h => h.2, fun h => ⟨?_, h⟩⟩
  refine List.mem_map.2 ⟨k.toNat, List.mem_range.2 k.isLt, ?_⟩
  simp

/-- `KEYWAIT_PICK` answers none exactly when no key is pressed. -/
theorem keywaitPick_eq_none (ks : List Nibble) : keywaitPick ks = none ↔ ks = [] := by
  cases ks with
  | nil => simp [keywaitPick]
  | cons k ks => cases ks <;> simp [keywaitPick]

/-- `KEYWAIT_PICK` answers a pressed key. -/
theorem keywaitPick_mem (ks : List Nibble) (k : Nibble) (h : keywaitPick ks = some k) : k ∈ ks := by
  match ks, h with
  | [j], h => simp [keywaitPick] at h; simp [h]
  | j :: l :: ks, h =>
    have hlt : Config.keyPick (j :: l :: ks) % (j :: l :: ks).length < (j :: l :: ks).length :=
      Nat.mod_lt _ (by simp)
    simp only [keywaitPick, List.getD_eq_getElem?_getD, List.getElem?_eq_getElem hlt, Option.getD_some,
      Option.some.injEq] at h
    exact h ▸ List.getElem_mem hlt

/-! ### Flags -/

theorem toNat_flagByte (c : Bool) : (flagByte c).toNat = if c then 1 else 0 := by cases c <;> rfl

theorem carryOut_iff (a b : Byte) : carryOut a b = true ↔ 255 < a.toNat + b.toNat := by simp [carryOut]

theorem greater_iff (a b : Byte) : greater a b = true ↔ b.toNat < a.toNat := by simp [greater]

theorem toNat_bitOutRight (a : Byte) : (bitOutRight a).toNat = a.toNat % 2 := by
  simp [bitOutRight, Nat.and_one_is_mod]

theorem toNat_bitOutLeft (a : Byte) : (bitOutLeft a).toNat = a.toNat / 128 := by
  simp [bitOutLeft, Nat.shiftRight_eq_div_pow]

end Sys2Proof.Machine
end

