-- ==== Sys2Proof/Laws/Control.lean ====
section
/-! SUPPORT. What a push, a pop and a timer tick can do. -/

namespace Sys2Proof.Machine

/-- A push fails exactly on a full stack. -/
theorem State.push_eq_none (s : State) (w : Word) : s.push w = none ↔ s.sp.val = 16 := by
  have := s.sp.isLt
  unfold State.push
  split <;> simp <;> omega

/-- A push that succeeds writes `STACK[SP]` and increments `SP`, and changes nothing else. -/
theorem State.push_eq_some (s t : State) (w : Word) (h : s.push w = some t) :
    ∃ hlt : s.sp.val < 16,
      t = { s with stack := s.stack.set s.sp.val w hlt, sp := ⟨s.sp.val + 1, by omega⟩ } := by
  unfold State.push at h
  split at h
  next hlt => cases h; exact ⟨hlt, rfl⟩
  next => cases h

/-- A pop fails exactly on an empty stack. -/
theorem State.pop_eq_none (s : State) : s.pop = none ↔ s.sp.val = 0 := by
  unfold State.pop
  split <;> simp <;> omega

/-- A pop that succeeds decrements `SP` and answers the entry there, which is not erased. -/
theorem State.pop_eq_some (s t : State) (w : Word) (h : s.pop = some (w, t)) :
    ∃ hpos : 0 < s.sp.val, w = s.stack[s.sp.val - 1]'(by omega) ∧ t = { s with sp := ⟨s.sp.val - 1, by omega⟩ } := by
  unfold State.pop at h
  split at h
  next hpos => cases h; exact ⟨hpos, rfl, rfl⟩
  next => cases h

/-- A tick takes 1 from a timer, floored at zero. -/
theorem State.toNat_tick_dt (s : State) : s.tick.dt.toNat = s.dt.toNat - 1 := by
  simp only [State.tick_dt]
  split
  next h =>
    have h : (0 : Byte).toNat < s.dt.toNat := h
    rw [BitVec.toNat_sub_of_le (by rw [BitVec.le_def]; exact h)]; rfl
  next h =>
    have h : ¬ (0 : Byte).toNat < s.dt.toNat := h
    simp at h; simp [h]

theorem State.toNat_tick_st (s : State) : s.tick.st.toNat = s.st.toNat - 1 := by
  simp only [State.tick_st]
  split
  next h =>
    have h : (0 : Byte).toNat < s.st.toNat := h
    rw [BitVec.toNat_sub_of_le (by rw [BitVec.le_def]; exact h)]; rfl
  next h =>
    have h : ¬ (0 : Byte).toNat < s.st.toNat := h
    simp at h; simp [h]

end Sys2Proof.Machine
end

