-- ==== Sys2Proof/Laws/Display.lean ====
section
/-! SUPPORT. What the framebuffer operations do to one pixel, and to the collision flag. -/

namespace Sys2Proof.Machine

/-- Flipping a pixel changes that pixel alone. -/
theorem Framebuffer.pixel_flip (fb : Framebuffer) (px qx : Fin 64) (py qy : Fin 32) :
    (fb.flip px py).pixel qx qy = if qx = px ∧ qy = py then !fb.pixel px py else fb.pixel qx qy := by
  unfold Framebuffer.pixel Framebuffer.flip
  rw [Vector.getElem_set]
  by_cases hy : qy = py
  · subst hy
    simp only [if_true, Vector.getElem_set, and_true]
    by_cases hx : qx = px
    · subst hx; simp
    · have : px.val ≠ qx.val := fun e => hx (Fin.ext e.symm)
      simp [hx, this]
  · have : py.val ≠ qy.val := fun e => hy (Fin.ext e.symm)
    simp [hy, this]

/-- Every pixel of the cleared framebuffer is dark. -/
@[simp] theorem Framebuffer.pixel_clear (px : Fin 64) (py : Fin 32) : Framebuffer.clear.pixel px py = false := by
  simp [Framebuffer.pixel, Framebuffer.clear]

/-- Plotting a bit XORs it into its target pixel and leaves every other pixel alone. -/
theorem pixel_plot (c : Canvas) (px qx : Fin 64) (py qy : Fin 32) (bit : Bool) :
    (plot c px py bit).fb.pixel qx qy
      = (c.fb.pixel qx qy ^^ (bit && decide (qx = px ∧ qy = py))) := by
  unfold plot
  cases bit
  · simp
  · by_cases h : qx = px ∧ qy = py
    · simp [Framebuffer.pixel_flip, h]
    · simp [Framebuffer.pixel_flip, h]

/-- Plotting a bit records a hit exactly when it erases its target pixel. -/
theorem hit_plot (c : Canvas) (px : Fin 64) (py : Fin 32) (bit : Bool) :
    (plot c px py bit).hit = (c.hit || (bit && c.fb.pixel px py)) := rfl

/-- Two framebuffers with the same pixels are the same. -/
theorem Framebuffer.ext_pixel (fb gb : Framebuffer) (h : ∀ px py, fb.pixel px py = gb.pixel px py) : fb = gb := by
  apply Vector.ext
  intro y hy
  apply Vector.ext
  intro x hx
  exact h ⟨x, hx⟩ ⟨y, hy⟩

end Sys2Proof.Machine
end

