-- ==== Sys2Proof/Laws/Cycle.lean ====
section
/-! SUPPORT. What one step can do, said once. -/

namespace Sys2Proof.Machine

/-- A step that answers a next state fetched a word on a running machine, ran it, and ended the cycle. -/
theorem step_next (s t : State) (h : step s = .next t) :
    s.halt = none ∧ ∃ u, runWord s.fetchWord s = .next u ∧ t = endCycle u := by
  unfold step cycle at h
  split at h
  · cases h
  next hh =>
    refine ⟨hh, ?_⟩
    split at h
    next u hu => cases h; exact ⟨u, hu, rfl⟩
    · cases h
    · cases h

/-- A step of a running machine runs the fetched word and ends the cycle. -/
theorem step_running (s u : State) (hs : s.halt = none) (hu : runWord s.fetchWord s = .next u) :
    step s = .next (endCycle u) := by
  unfold step cycle
  rw [hs]
  simp only [hu]

/-- Running a word either executes the instruction it decodes to, or reports it. -/
theorem runWord_next (w : Word) (s u : State) (h : runWord w s = .next u) :
    (∃ i, decode w = .ok i ∧ exec i s = .next u) ∨
      (decode w = .error (.unrecognized w) ∧ u = s.reportUnrecognized w) := by
  unfold runWord at h
  split at h
  next i hi => exact .inl ⟨i, hi, h⟩
  next e he =>
    cases h
    refine .inr ⟨?_, rfl⟩
    unfold decode at he ⊢
    split at he
    · cases he
    next => rfl

/-- The end of a cycle is a tick, or nothing on a machine that has just halted. -/
theorem endCycle_cases (s : State) : (s.halt = none ∧ endCycle s = s.tick) ∨ (s.halt ≠ none ∧ endCycle s = s) := by
  unfold endCycle
  split
  next h => exact .inl ⟨h, rfl⟩
  next h => exact .inr ⟨by simp [h], rfl⟩

/-- The end of a cycle changes the timers alone. -/
theorem endCycle_eq (s : State) : endCycle s = { s with dt := (endCycle s).dt, st := (endCycle s).st } := by
  unfold endCycle
  split <;> rfl

/-- A word placed where the machine fetches is the word it fetches. -/
theorem State.fetchWord_placeWord (s : State) (w : Word) : (s.placeWord w).fetchWord = w := by
  unfold State.fetchWord State.placeWord
  have h0 := State.readByte_writeBytes_inside { s with halt := none } s.pc.toNat 0 [highByte w, lowByte w]
    (by simp) (by simp)
  have h1 := State.readByte_writeBytes_inside { s with halt := none } s.pc.toNat 1 [highByte w, lowByte w]
    (by simp) (by simp)
  simp only [State.writeBytes_pc]
  simp only [Nat.add_zero] at h0
  rw [h0, h1]
  simp only [List.getElem_cons_zero, List.getElem_cons_succ, wordOfBytes, highByte, lowByte]
  apply BitVec.eq_of_getLsbD_eq
  intro k hk
  simp only [BitVec.getLsbD_append, BitVec.getLsbD_extractLsb']
  by_cases h : k < 8
  · simp [h]
  · simp [h]
    by_cases h2 : k - 8 < 8
    · simp [h2, show 8 + (k - 8) = k by omega]
    · omega

end Sys2Proof.Machine
end

