-- ==== Sys2Proof/Laws/Bridge.lean ====
section
/-! SUPPORT. What the host operations and the shared terms of the statements do. -/

namespace Sys2Proof.Machine

/-! ### What an address reads as in the state after `Create` -/

/-- The font bytes stand at `FONT_BASE .. FONT_BASE + 79`. -/
theorem resetByte_font (f : Font) (j : Nat) (h : j < 80) : resetByte f (f.base.val + j) = f.table[j] := by
  have := f.base.isLt
  unfold resetByte
  rw [if_neg (by simp only [Config.progBase]; omega), dif_pos ⟨by omega, by omega⟩]
  simp

/-- Every other address reads as 0. -/
theorem resetByte_other (f : Font) (a : Nat) (h : a < f.base.val ∨ f.base.val + 80 ≤ a) : resetByte f a = 0 := by
  unfold resetByte
  split
  · rfl
  · rw [dif_neg (by omega)]

/-- Memory with nothing listed reads as the reset contents. -/
theorem State.readByte_nil (s : State) (a : Nat) (h : s.mem = []) : s.readByte a = resetByte s.font (a12 a) := by
  simp [State.readByte, h, Memory.read]

/-! ### Host operations -/

/-- A program that fits is written from `0x200` on. -/
theorem hostLoadProgram_fits (bytes : List Byte) (s : State) (h : bytes.length ≤ 3584) :
    hostLoadProgram bytes s = some (s.writeBytes 0x200 bytes) := if_pos h

/-- A program that does not fit is refused. -/
theorem hostLoadProgram_exceeds (bytes : List Byte) (s : State) (h : 3584 < bytes.length) :
    hostLoadProgram bytes s = none := if_neg (Nat.not_le.2 h)

/-- After `Reset`, a byte of the reserved area is as after `Create`, and a byte of the program area as before. -/
theorem readByte_hostReset (s : State) (a : Nat) :
    (hostReset s).readByte a = if a12 a < 0x200 then resetByte s.font (a12 a) else s.readByte a :=
  Memory.read_repairReserved _ _ _

/-- `TimerTick` on a running machine is the tick. -/
theorem hostTimerTick_running (s : State) (h : s.halt = none) : hostTimerTick s = s.tick := by
  simp [hostTimerTick, endCycle, h]

/-- `TimerTick` on a halted machine does nothing. -/
theorem hostTimerTick_halted (s : State) (e : Fatal) (h : s.halt = some e) : hostTimerTick s = s := by
  simp [hostTimerTick, endCycle, h]

/-! ### Frames -/

/-- A frame that names nothing holds of a state and itself. -/
theorem Framed.refl (regs : List Nibble) (parts : List Part) (s : State) : Framed regs parts s s :=
  ⟨fun _ _ => rfl, fun p _ => by cases p <;> simp [Part.same]⟩

/-- Frames compose. -/
theorem Framed.trans {regs : List Nibble} {parts : List Part} {s t u : State} (h : Framed regs parts s t)
    (k : Framed regs parts t u) : Framed regs parts s u := by
  refine ⟨fun r hr => (k.1 r hr).trans (h.1 r hr), fun p hp => ?_⟩
  have a := h.2 p hp
  have b := k.2 p hp
  cases p <;> simp only [Part.same] at a b ⊢ <;> simp_all

/-- A tick changes the timers alone. -/
theorem Framed.tick (s : State) : Framed [] [.delay, .sound] s s.tick := by
  refine ⟨fun _ _ => rfl, fun p hp => ?_⟩
  cases p <;> simp_all [Part.same, State.readByte]

end Sys2Proof.Machine
end

