-- ==== Sys2Proof/Laws/Decode.lean ====
section
/-! SUPPORT. What the encoder's formats and the decoder's two answers are. -/

namespace Sys2Proof

/-- A word of format NNN as a number. -/
theorem toNat_wordNNN (fam : Nibble) (nnn : Addr12) : (wordNNN fam nnn).toNat = fam.toNat * 4096 + nnn.toNat := by
  rw [wordNNN, BitVec.toNat_append, ← Nat.shiftLeft_add_eq_or_of_lt nnn.isLt, Nat.shiftLeft_eq]

/-- A word of format XKK or XS as a number. -/
theorem toNat_wordXKK (fam x : Nibble) (kk : Byte) :
    (wordXKK fam x kk).toNat = fam.toNat * 4096 + x.toNat * 256 + kk.toNat := by
  rw [wordXKK, BitVec.toNat_append, BitVec.toNat_append, ← Nat.shiftLeft_add_eq_or_of_lt x.isLt,
    ← Nat.shiftLeft_add_eq_or_of_lt kk.isLt, Nat.shiftLeft_eq, Nat.shiftLeft_eq]
  omega

/-- A word of format XY or XYN as a number. -/
theorem toNat_wordXYN (fam x y n : Nibble) :
    (wordXYN fam x y n).toNat = fam.toNat * 4096 + x.toNat * 256 + y.toNat * 16 + n.toNat := by
  have hyn : (y ++ n).toNat = y.toNat * 16 + n.toNat := by
    rw [BitVec.toNat_append, ← Nat.shiftLeft_add_eq_or_of_lt n.isLt, Nat.shiftLeft_eq]
  have : (wordXYN fam x y n).toNat = (wordXKK fam x (y ++ n)).toNat := rfl
  rw [this, toNat_wordXKK, hyn]
  omega

/-- The big-endian word of two bytes as a number. -/
theorem toNat_wordOfBytes (hi lo : Byte) : (wordOfBytes hi lo).toNat = hi.toNat * 256 + lo.toNat := by
  rw [wordOfBytes, BitVec.toNat_append, ← Nat.shiftLeft_add_eq_or_of_lt lo.isLt, Nat.shiftLeft_eq]

/-- Decode answers an instruction exactly when dispatch selects it. -/
theorem decode_eq_ok (w : Word) (i : Instr) : decode w = .ok i ↔ selectInstr (fieldsOf w) = some i := by
  unfold decode
  cases h : selectInstr (fieldsOf w) <;> simp

/-- Decode answers an error, always about the word itself, exactly when dispatch selects nothing. -/
theorem decode_eq_error (w : Word) (e : DecodeError) :
    decode w = .error e ↔ selectInstr (fieldsOf w) = none ∧ e = .unrecognized w := by
  unfold decode
  cases h : selectInstr (fieldsOf w) <;> simp [eq_comm]

end Sys2Proof
end

