-- ==== Sys2Proof/Laws/PerInstr.lean ====
section
/-! SUPPORT. Statements made per instruction. `EncodeInRow`: an instruction's canonical word carries exactly the fixed bits
of its row of the opcode map, the row is one of the map's, and the word has no ignored bit set (R98, R100, R101). -/

namespace Sys2Proof.Laws.EncodeInRow

def Statement (i : Instr) : Prop :=
  encode i &&& i.row.mask = i.row.bits ∧ i.row ∈ opcodeMap ∧ encode i &&& ignoredBits i = 0

theorem nib_and_F (a : Nibble) : a &&& 0xF = a := BitVec.and_allOnes
theorem nib_and_0 (a : Nibble) : a &&& 0 = 0 := BitVec.and_zero
theorem byte_and_FF (a : Byte) : a &&& 0xFF = a := BitVec.and_allOnes
theorem byte_and_0 (a : Byte) : a &&& 0 = 0 := BitVec.and_zero
theorem addr_and_0 (a : Addr12) : a &&& 0 = 0 := BitVec.and_zero

/-- Masking a word of format NNN masks its fields. -/
theorem and_wordNNN (fam f : Nibble) (nnn m : Addr12) :
    wordNNN fam nnn &&& wordNNN f m = wordNNN (fam &&& f) (nnn &&& m) :=
  BitVec.and_append

/-- Masking a word of format XKK or XS masks its fields. -/
theorem and_wordXKK (fam x f m : Nibble) (kk k : Byte) :
    wordXKK fam x kk &&& wordXKK f m k = wordXKK (fam &&& f) (x &&& m) (kk &&& k) :=
  BitVec.and_append.trans (congrArg (· ++ (kk &&& k)) BitVec.and_append)

/-- Masking a word of format XY or XYN masks its fields. -/
theorem and_wordXYN (fam x y n f a b c : Nibble) :
    wordXYN fam x y n &&& wordXYN f a b c = wordXYN (fam &&& f) (x &&& a) (y &&& b) (n &&& c) :=
  BitVec.and_append.trans (congrArg₂ (· ++ ·) BitVec.and_append BitVec.and_append)

/-- A word of format NNN carries its family. -/
theorem family_wordNNN (fam : Nibble) (nnn : Addr12) : wordNNN fam nnn &&& wordNNN 0xF 0 = wordNNN fam 0 := by
  rw [and_wordNNN, nib_and_F, addr_and_0]

/-- A word of format XKK carries its family. -/
theorem family_wordXKK (fam x : Nibble) (kk : Byte) : wordXKK fam x kk &&& wordXKK 0xF 0 0 = wordXKK fam 0 0 := by
  rw [and_wordXKK, nib_and_F, nib_and_0, byte_and_0]

/-- A word of format XS carries its family and its sub-opcode. -/
theorem sub_wordXKK (fam x : Nibble) (kk : Byte) : wordXKK fam x kk &&& wordXKK 0xF 0 0xFF = wordXKK fam 0 kk := by
  rw [and_wordXKK, nib_and_F, nib_and_0, byte_and_FF]

/-- A word of format XYN carries its family. -/
theorem family_wordXYN (fam x y n : Nibble) : wordXYN fam x y n &&& wordXYN 0xF 0 0 0 = wordXYN fam 0 0 0 := by
  rw [and_wordXYN, nib_and_F, nib_and_0, nib_and_0, nib_and_0]

/-- A word of format XY carries its family and its sub-opcode. -/
theorem sub_wordXYN (fam x y n : Nibble) : wordXYN fam x y n &&& wordXYN 0xF 0 0 0xF = wordXYN fam 0 0 n := by
  rw [and_wordXYN, nib_and_F, nib_and_0, nib_and_0, nib_and_F]

/-- Masking with the low nibble leaves the low nibble of a word of format XY. -/
theorem low_wordXYN (fam x y n : Nibble) : wordXYN fam x y n &&& wordXYN 0 0 0 0xF = wordXYN 0 0 0 n := by
  rw [and_wordXYN, nib_and_0, nib_and_0, nib_and_0, nib_and_F]

/-- Masking with the `y` nibble leaves the `y` nibble of a word of format XY. -/
theorem mid_wordXYN (fam x y n : Nibble) : wordXYN fam x y n &&& wordXYN 0 0 0xF 0 = wordXYN 0 0 y 0 := by
  rw [and_wordXYN, nib_and_0, nib_and_0, nib_and_F, nib_and_0]

/-- The row of every instruction is one of the map's. -/
theorem row_mem (i : Instr) : i.row ∈ opcodeMap := by
  cases i <;> simp [opcodeMap, sampleInstrs, Instr.row]

theorem cls : Statement .cls := ⟨by decide, row_mem _, by decide⟩

theorem ret : Statement .ret := ⟨by decide, row_mem _, by decide⟩

theorem jp (nnn : Addr12) : Statement (.jp nnn) := ⟨family_wordNNN 0x1 nnn, row_mem _, BitVec.and_zero⟩

theorem call (nnn : Addr12) : Statement (.call nnn) := ⟨family_wordNNN 0x2 nnn, row_mem _, BitVec.and_zero⟩

theorem seImm (x : Nibble) (kk : Byte) : Statement (.seImm x kk) := ⟨family_wordXKK 0x3 x kk, row_mem _, BitVec.and_zero⟩

theorem sneImm (x : Nibble) (kk : Byte) : Statement (.sneImm x kk) := ⟨family_wordXKK 0x4 x kk, row_mem _, BitVec.and_zero⟩

theorem seReg (x y : Nibble) : Statement (.seReg x y) := ⟨family_wordXYN 0x5 x y 0x0, row_mem _, low_wordXYN 0x5 x y 0x0⟩

theorem ldImm (x : Nibble) (kk : Byte) : Statement (.ldImm x kk) := ⟨family_wordXKK 0x6 x kk, row_mem _, BitVec.and_zero⟩

theorem addImm (x : Nibble) (kk : Byte) : Statement (.addImm x kk) := ⟨family_wordXKK 0x7 x kk, row_mem _, BitVec.and_zero⟩

theorem ldReg (x y : Nibble) : Statement (.ldReg x y) := ⟨sub_wordXYN 0x8 x y 0x0, row_mem _, BitVec.and_zero⟩

theorem orReg (x y : Nibble) : Statement (.orReg x y) := ⟨sub_wordXYN 0x8 x y 0x1, row_mem _, BitVec.and_zero⟩

theorem andReg (x y : Nibble) : Statement (.andReg x y) := ⟨sub_wordXYN 0x8 x y 0x2, row_mem _, BitVec.and_zero⟩

theorem xorReg (x y : Nibble) : Statement (.xorReg x y) := ⟨sub_wordXYN 0x8 x y 0x3, row_mem _, BitVec.and_zero⟩

theorem addReg (x y : Nibble) : Statement (.addReg x y) := ⟨sub_wordXYN 0x8 x y 0x4, row_mem _, BitVec.and_zero⟩

theorem sub (x y : Nibble) : Statement (.sub x y) := ⟨sub_wordXYN 0x8 x y 0x5, row_mem _, BitVec.and_zero⟩

theorem shr (x : Nibble) : Statement (.shr x) := ⟨sub_wordXYN 0x8 x 0x0 0x6, row_mem _, mid_wordXYN 0x8 x 0x0 0x6⟩

theorem subn (x y : Nibble) : Statement (.subn x y) := ⟨sub_wordXYN 0x8 x y 0x7, row_mem _, BitVec.and_zero⟩

theorem shl (x : Nibble) : Statement (.shl x) := ⟨sub_wordXYN 0x8 x 0x0 0xE, row_mem _, mid_wordXYN 0x8 x 0x0 0xE⟩

theorem sneReg (x y : Nibble) : Statement (.sneReg x y) := ⟨family_wordXYN 0x9 x y 0x0, row_mem _, low_wordXYN 0x9 x y 0x0⟩

theorem ldI (nnn : Addr12) : Statement (.ldI nnn) := ⟨family_wordNNN 0xA nnn, row_mem _, BitVec.and_zero⟩

theorem jpV0 (nnn : Addr12) : Statement (.jpV0 nnn) := ⟨family_wordNNN 0xB nnn, row_mem _, BitVec.and_zero⟩

theorem rnd (x : Nibble) (kk : Byte) : Statement (.rnd x kk) := ⟨family_wordXKK 0xC x kk, row_mem _, BitVec.and_zero⟩

theorem drw (x y n : Nibble) : Statement (.drw x y n) := ⟨family_wordXYN 0xD x y n, row_mem _, BitVec.and_zero⟩

theorem skp (x : Nibble) : Statement (.skp x) := ⟨sub_wordXKK 0xE x 0x9E, row_mem _, BitVec.and_zero⟩

theorem sknp (x : Nibble) : Statement (.sknp x) := ⟨sub_wordXKK 0xE x 0xA1, row_mem _, BitVec.and_zero⟩

theorem ldVxDt (x : Nibble) : Statement (.ldVxDt x) := ⟨sub_wordXKK 0xF x 0x07, row_mem _, BitVec.and_zero⟩

theorem ldVxK (x : Nibble) : Statement (.ldVxK x) := ⟨sub_wordXKK 0xF x 0x0A, row_mem _, BitVec.and_zero⟩

theorem ldDtVx (x : Nibble) : Statement (.ldDtVx x) := ⟨sub_wordXKK 0xF x 0x15, row_mem _, BitVec.and_zero⟩

theorem ldStVx (x : Nibble) : Statement (.ldStVx x) := ⟨sub_wordXKK 0xF x 0x18, row_mem _, BitVec.and_zero⟩

theorem addI (x : Nibble) : Statement (.addI x) := ⟨sub_wordXKK 0xF x 0x1E, row_mem _, BitVec.and_zero⟩

theorem ldF (x : Nibble) : Statement (.ldF x) := ⟨sub_wordXKK 0xF x 0x29, row_mem _, BitVec.and_zero⟩

theorem ldB (x : Nibble) : Statement (.ldB x) := ⟨sub_wordXKK 0xF x 0x33, row_mem _, BitVec.and_zero⟩

theorem ldMemVx (x : Nibble) : Statement (.ldMemVx x) := ⟨sub_wordXKK 0xF x 0x55, row_mem _, BitVec.and_zero⟩

theorem ldVxMem (x : Nibble) : Statement (.ldVxMem x) := ⟨sub_wordXKK 0xF x 0x65, row_mem _, BitVec.and_zero⟩

end Sys2Proof.Laws.EncodeInRow
end

