-- ==== Sys2Proof/Tests/Slice0.lean ====
section
/-! SUPPORT. Tests. Every expected value is taken from spec/95_test_vectors.md (the vector is named) or is worked out by
hand from the rule named; none is the model's own answer. Then one witness for the hypotheses of every statement. -/

namespace Sys2Proof.Tests

open Sys2Proof.Machine

/-! ### Helpers -/

/-- The state after `Create` with the spec's default font and random input 0, as the vectors assume it. -/
def base : State := { State.reset with font := Config.defaultFont, rnd := 0 }

/-- `base` with some registers given values. -/
def regs (l : List (Nibble × Byte)) : State := l.foldl (fun s p => s.setV p.1 p.2) base

/-- What `f` sees after one cycle that runs word `w` at the program counter; none if the machine stops. -/
def after {α : Type} (w : Nat) (s : State) (f : State → α) : Option α :=
  match step (s.withFetchWord 16 w) with
  | .next t => some (f t)
  | .fault _ | .refused _ => none

/-- The key latches with the listed keys pressed. -/
def pressed (ks : List Nat) : Vector Bool 16 := Vector.ofFn (fun k => ks.contains k.val)

/-- A cycle that `after` sees is a step to a next state. -/
theorem next_of_after {α : Type} {w : Nat} {s : State} {f : State → α} {a : α} (h : after w s f = some a) :
    ∃ t, step (s.withFetchWord 16 w) = .next t ∧ f t = a := by
  unfold after at h
  split at h
  next t ht => exact ⟨t, ht, by simpa using h⟩
  all_goals cases h

/-! ### Well-formedness (R9) -/

/-- DEC-1: the fields of 0xD12A are well formed. -/
theorem test_wellFormed_ok : Fields.wellFormed ⟨0xD, 0x1, 0x2, 0xA, 0x2A, 0x12A⟩ = true := by decide

/-- `kk` must be `y * 16 + n`: here `nnn` agrees with `x` and `kk`, and `kk` does not agree with `y`. -/
theorem test_wellFormed_refuses_kk :
    Fields.wellFormed ⟨0xD, 0x1, 0x2, 0xA, 0x3A, 0x13A⟩ = false ∧ Fields.nnnAgrees ⟨0xD, 0x1, 0x2, 0xA, 0x3A, 0x13A⟩ = true := by
  decide

/-- `nnn` must be `x * 256 + kk`: here `kk` agrees with `y` and `n`, and `nnn` does not agree with `x`. -/
theorem test_wellFormed_refuses_nnn :
    Fields.wellFormed ⟨0xD, 0x1, 0x2, 0xA, 0x2A, 0x22A⟩ = false ∧ Fields.kkAgrees ⟨0xD, 0x1, 0x2, 0xA, 0x2A, 0x22A⟩ = true := by
  decide

/-! ### Decoding: a word of every row, its bits written out from R91 and R100 -/

/-- DEC-1, DEC-2: the fields of two words. -/
theorem test_fields :
    fieldsOf 0xD12A = ⟨0xD, 0x1, 0x2, 0xA, 0x2A, 0x12A⟩ ∧ fieldsOf 0x8AB4 = ⟨0x8, 0xA, 0xB, 0x4, 0xB4, 0xAB4⟩ := by decide

/-- Family 0, FIXED: the whole word. -/
theorem test_decode_fixed :
    decode 0b0000000011100000 = .ok .cls ∧ decode 0b0000000011101110 = .ok .ret := by decide

/-- Families 1, 2, A, B, NNN: `fam:4 nnn:12`. -/
theorem test_decode_nnn :
    decode 0b0001001000000100 = .ok (.jp 0x204) ∧ decode 0b0010101010111100 = .ok (.call 0xABC) ∧
    decode 0b1010001000001110 = .ok (.ldI 0x20E) ∧ decode 0b1011111111111111 = .ok (.jpV0 0xFFF) := by decide

/-- Families 3, 4, 6, 7, C, XKK: `fam:4 x:4 kk:8`. -/
theorem test_decode_xkk :
    decode 0b0011101000010000 = .ok (.seImm 0xA 0x10) ∧ decode 0b0100101000010000 = .ok (.sneImm 0xA 0x10) ∧
    decode 0b0110101000111111 = .ok (.ldImm 0xA 0x3F) ∧ decode 0b0111000011111111 = .ok (.addImm 0 0xFF) ∧
    decode 0b1100001100001111 = .ok (.rnd 3 0x0F) := by decide

/-- Families 5, 9, 8, XY: `fam:4 x:4 y:4 op:4`. -/
theorem test_decode_xy :
    decode 0b0101000100100000 = .ok (.seReg 1 2) ∧ decode 0b1001000100100000 = .ok (.sneReg 1 2) ∧
    decode 0b1000111011110000 = .ok (.ldReg 0xE 0xF) ∧ decode 0b1000000100100001 = .ok (.orReg 1 2) ∧
    decode 0b1000000100100010 = .ok (.andReg 1 2) ∧ decode 0b1000000100100011 = .ok (.xorReg 1 2) ∧
    decode 0b1000101010110100 = .ok (.addReg 0xA 0xB) ∧ decode 0b1000000100100101 = .ok (.sub 1 2) ∧
    decode 0b1000000100000110 = .ok (.shr 1) ∧ decode 0b1000000100100111 = .ok (.subn 1 2) ∧
    decode 0b1000000100001110 = .ok (.shl 1) := by decide

/-- Family D, XYN: `fam:4 x:4 y:4 n:4`. -/
theorem test_decode_xyn : decode 0b1101000100101010 = .ok (.drw 1 2 0xA) := by decide

/-- Families E, F, XS: `fam:4 x:4 op:8`. -/
theorem test_decode_xs :
    decode 0b1110001010011110 = .ok (.skp 2) ∧ decode 0b1110001010100001 = .ok (.sknp 2) ∧
    decode 0b1111000100000111 = .ok (.ldVxDt 1) ∧ decode 0b1111001000001010 = .ok (.ldVxK 2) ∧
    decode 0b1111000000010101 = .ok (.ldDtVx 0) ∧ decode 0b1111000100011000 = .ok (.ldStVx 1) ∧
    decode 0b1111001000011110 = .ok (.addI 2) ∧ decode 0b1111101000101001 = .ok (.ldF 0xA) ∧
    decode 0b1111000000110011 = .ok (.ldB 0) ∧ decode 0b1111001001010101 = .ok (.ldMemVx 2) ∧
    decode 0b1111001001100101 = .ok (.ldVxMem 2) := by decide

/-- UNR-3, UNR-4, UNR-5: ignored nibbles do not keep a word from being recognized. -/
theorem test_decode_alias :
    decode 0x512F = .ok (.seReg 1 2) ∧ decode 0x9127 = .ok (.sneReg 1 2) ∧ decode 0x81A6 = .ok (.shr 1) := by decide

/-- UNR-2: the words listed there are unrecognized. -/
theorem test_decode_unrecognized :
    ∀ w ∈ [0x0000, 0x01E0, 0x00E1, 0x0AEE, 0x8128, 0x812F, 0xE19F, 0xE00E, 0xE1F1, 0xF100, 0xF1FF, 0xFFFF],
      decode (BitVec.ofNat 16 w) = .error (.unrecognized (BitVec.ofNat 16 w)) := by decide

/-- The encoder gives the words of the vectors back (R103 writes ignored nibbles as 0). -/
theorem test_encode :
    encode (.drw 1 2 0xA) = 0xD12A ∧ encode (.addReg 0xA 0xB) = 0x8AB4 ∧ encode (.shr 1) = 0x8106 ∧
    encode (.ldVxMem 2) = 0xF265 ∧ encode (.skp 2) = 0xE29E ∧ encode (.call 0xABC) = 0x2ABC := by decide

/-- The bytes of a word lie high byte first (DEC-3), and the table's numbering starts at the word's least bit. -/
theorem test_tableWord :
    decodeBytes 0x12 0x34 = .ok (.jp 0x234) ∧ decodeTableWord 16 0x1234 = some (.jp 0x234) ∧ decodeTableWord 16 0x0123 = none := by
  decide

/-! ### The cycle -/

/-- DEC-4: fetch across the end of memory. -/
theorem test_fetch_wraps :
    after 0x6A3F { base with pc := 0x0FFF } (fun t => (t.getV 0xA, t.pc, t.readByte 0xFFF, t.readByte 0))
      = some (0x3F, 0x1001, 0x6A, 0x3F) := by decide

/-- DEC-5: fetch with `PC` above 12 bits. -/
theorem test_fetch_above_12_bits :
    after 0x6A3F { base with pc := 0x10FE } (fun t => (t.getV 0xA, t.pc, t.readByte 0x0FE)) = some (0x3F, 0x1100, 0x6A) := by
  decide

/-- UNR-1: report, skip, tick. -/
theorem test_unrecognized :
    after 0x0123 { base with dt := 1 } (fun t => (t.reports, t.pc, t.dt, t.halt)) = some ([⟨0x200, 0x0123⟩], 0x202, 0, none) := by
  decide

/-- CYC-1: a cycle before any program, from reset itself. -/
theorem test_cycle_before_any_program :
    (match step { State.reset with font := Config.defaultFont } with
      | .next t => some (t.reports, t.pc)
      | .fault _ | .refused _ => none) = some ([⟨0x200, 0x0000⟩], 0x202) := by decide

/-- CYC-2: a halted machine answers its error. -/
theorem test_halted :
    cycleError { base with halt := some .stackUnderflow } = some .stackUnderflow ∧
    State.errCode { base with halt := some .stackUnderflow } = 2 := by decide

/-! ### Control transfer -/

/-- CT-7. -/
theorem test_ret :
    after 0x00EE { base with pc := 0x20C, sp := 1, stack := base.stack.set 0 0x206 } (fun t => (t.sp.val, t.pc, t.stack[0]))
      = some (0, 0x206, 0x206) := by decide

/-- CT-8: nothing but `HALT` is written and no tick follows. -/
theorem test_ret_underflow :
    after 0x00EE { base with dt := 5 } (fun t => (t.pc, t.sp.val, t.dt, t.halt)) = some (0x200, 0, 5, some .stackUnderflow) := by
  decide

/-- CT-2: a jump to itself ticks. -/
theorem test_jp : after 0x1200 { base with dt := 2 } (fun t => (t.pc, t.dt)) = some (0x200, 1) := by decide

/-- CT-4. -/
theorem test_call :
    after 0x2ABC { base with pc := 0x400, sp := 15 } (fun t => (t.stack[15], t.sp.val, t.pc)) = some (0x402, 16, 0xABC) := by
  decide

/-- CT-5. -/
theorem test_call_overflow :
    after 0x2ABC { base with pc := 0x400, sp := 16, dt := 5 } (fun t => (t.pc, t.sp.val, t.dt, t.halt))
      = some (0x400, 16, 5, some .stackOverflow) := by decide

/-- CT-10, CT-12. -/
theorem test_seImm :
    after 0x3A10 (regs [(0xA, 0x10)]) (fun t => t.pc) = some 0x204 ∧
    after 0x3000 { base with pc := 0xFFFE } (fun t => t.pc) = some 0x0002 := by decide

/-- CT-13, CT-14. -/
theorem test_sneImm :
    after 0x4A10 (regs [(0xA, 0x10)]) (fun t => t.pc) = some 0x202 ∧
    after 0x4A10 (regs [(0xA, 0x11)]) (fun t => t.pc) = some 0x204 := by decide

/-- CT-16, CT-17. -/
theorem test_seReg :
    after 0x5120 (regs [(1, 1), (2, 2)]) (fun t => t.pc) = some 0x202 ∧
    after 0x5110 (regs [(1, 9)]) (fun t => t.pc) = some 0x204 := by decide

/-- CT-18, CT-19. -/
theorem test_sneReg :
    after 0x9120 (regs [(1, 1), (2, 2)]) (fun t => t.pc) = some 0x204 ∧
    after 0x9120 (regs [(1, 2), (2, 2)]) (fun t => t.pc) = some 0x202 := by decide

/-- CT-21: the sum is not reduced to 12 bits. -/
theorem test_jpV0 : after 0xBFFF (regs [(0, 0xFF)]) (fun t => t.pc) = some 0x10FE := by decide

/-! ### Load, arithmetic, logic, shifts, random -/

/-- AL-2. -/
theorem test_ldImm : after 0x6FAB base (fun t => (t.getV 0xF, t.pc)) = some (0xAB, 0x202) := by decide

/-- AL-3: no flag. -/
theorem test_addImm : after 0x7001 (regs [(0, 0xFF)]) (fun t => (t.getV 0, t.getV 0xF)) = some (0, 0) := by decide

/-- AL-7. -/
theorem test_ldReg : after 0x8EF0 (regs [(0xF, 1)]) (fun t => (t.getV 0xE, t.getV 0xF)) = some (1, 1) := by decide

/-- AL-8. -/
theorem test_orReg :
    after 0x8121 (regs [(1, 0xF0), (2, 0x0F), (0xF, 0x55)]) (fun t => (t.getV 1, t.getV 0xF)) = some (0xFF, 0x55) := by decide

/-- AL-9. -/
theorem test_andReg :
    after 0x8122 (regs [(1, 0xF3), (2, 0x3F), (0xF, 0x55)]) (fun t => (t.getV 1, t.getV 0xF)) = some (0x33, 0x55) := by decide

/-- AL-10. -/
theorem test_xorReg :
    after 0x8123 (regs [(1, 0xFF), (2, 0x0F), (0xF, 0x55)]) (fun t => (t.getV 1, t.getV 0xF)) = some (0xF0, 0x55) := by decide

/-- S2, AL-14. -/
theorem test_addReg :
    after 0x8014 (regs [(0, 0xFF), (1, 1)]) (fun t => (t.getV 0, t.getV 0xF)) = some (0, 1) ∧
    after 0x8004 (regs [(0, 0x90)]) (fun t => (t.getV 0, t.getV 0xF)) = some (0x20, 1) := by decide

/-- AL-15, AL-16: register 15 as an operand. -/
theorem test_addReg_vf :
    after 0x80F4 (regs [(0, 0xFF), (0xF, 1)]) (fun t => (t.getV 0, t.getV 0xF)) = some (0, 1) ∧
    after 0x8F14 (regs [(0xF, 0xF0), (1, 0x20)]) (fun t => t.getV 0xF) = some 0x10 := by decide

/-- S3, AL-18: the comparison is strict. -/
theorem test_sub :
    after 0x8125 (regs [(1, 5), (2, 0xA)]) (fun t => (t.getV 1, t.getV 0xF)) = some (0xFB, 0) ∧
    after 0x8125 (regs [(1, 7), (2, 7)]) (fun t => (t.getV 1, t.getV 0xF)) = some (0, 0) := by decide

/-- AL-20, AL-22: register 15 as an operand. -/
theorem test_sub_vf :
    after 0x8F15 (regs [(0xF, 0xA), (1, 5)]) (fun t => t.getV 0xF) = some 0xFC ∧
    after 0x80F5 (regs [(0, 0xA), (0xF, 5)]) (fun t => (t.getV 0, t.getV 0xF)) = some (9, 1) := by decide

/-- UNR-5, AL-34: `Vy` has no part in the shift. -/
theorem test_shr :
    after 0x81A6 (regs [(1, 5), (0xA, 0xEE)]) (fun t => (t.getV 1, t.getV 0xF, t.getV 0xA)) = some (2, 1, 0xEE) ∧
    after 0x8106 (regs [(1, 4)]) (fun t => (t.getV 1, t.getV 0xF)) = some (2, 0) := by decide

/-- AL-38. -/
theorem test_shr_vf : after 0x8F06 (regs [(0xF, 3)]) (fun t => t.getV 0xF) = some 0 := by decide

/-- AL-25, AL-26. -/
theorem test_subn :
    after 0x8127 (regs [(1, 5), (2, 0xA)]) (fun t => (t.getV 1, t.getV 0xF)) = some (5, 1) ∧
    after 0x8127 (regs [(1, 0xA), (2, 5)]) (fun t => (t.getV 1, t.getV 0xF)) = some (0xFB, 0) := by decide

/-- AL-28, AL-30: register 15 as an operand. -/
theorem test_subn_vf :
    after 0x8F17 (regs [(0xF, 3), (1, 0xA)]) (fun t => t.getV 0xF) = some 9 ∧
    after 0x80F7 (regs [(0, 3), (0xF, 0xA)]) (fun t => (t.getV 0, t.getV 0xF)) = some (0xFE, 1) := by decide

/-- AL-40, AL-41. -/
theorem test_shl :
    after 0x810E (regs [(1, 0x81)]) (fun t => (t.getV 1, t.getV 0xF)) = some (2, 1) ∧
    after 0x810E (regs [(1, 0x40)]) (fun t => (t.getV 1, t.getV 0xF)) = some (0x80, 0) := by decide

/-- AL-46, AL-47. -/
theorem test_shl_vf :
    after 0x8F0E (regs [(0xF, 0xC1)]) (fun t => t.getV 0xF) = some 2 ∧
    after 0x8F0E (regs [(0xF, 0x7F)]) (fun t => t.getV 0xF) = some 0 := by decide

/-- AL-48. -/
theorem test_rnd : after 0xC30F { base with rnd := 0xA7 } (fun t => (t.getV 3, t.draws)) = some (7, 2) := by decide

/-! ### Index register and memory -/

/-- IM-1. -/
theorem test_ldI : after 0xA20E { base with i := 0xFFFF } (fun t => t.i) = some 0x20E := by decide

/-- IM-3, IM-4: no flag, modulo 65536. -/
theorem test_addI :
    after 0xF01E { regs [(0, 1), (0xF, 0x77)] with i := 0x0FFF } (fun t => (t.i, t.getV 0xF)) = some (0x1000, 0x77) ∧
    after 0xF01E { regs [(0, 1), (0xF, 0x77)] with i := 0xFFFF } (fun t => (t.i, t.getV 0xF)) = some (0, 0x77) := by decide

/-- IM-5, IM-6: the formula on the whole byte; the base is a parameter. -/
theorem test_ldF :
    after 0xFA29 { regs [(0xA, 0xA)] with font := ⟨0x50, Config.defaultFont.table⟩ } (fun t => t.i) = some 0x0082 ∧
    after 0xFA29 (regs [(0xA, 0xFF)]) (fun t => t.i) = some 0x04FB := by decide

/-- IM-8. -/
theorem test_ldB :
    after 0xF033 { regs [(0, 0xEA)] with i := 0x300 } (fun t => (t.readByte 0x300, t.readByte 0x301, t.readByte 0x302, t.i))
      = some (2, 3, 4, 0x300) := by decide

/-- IM-10: across the end of memory. -/
theorem test_ldB_wraps :
    after 0xF033 { regs [(0, 0x7B)] with i := 0xFFE } (fun t => (t.readByte 0xFFE, t.readByte 0xFFF, t.readByte 0))
      = some (1, 2, 3) := by decide

/-- IM-12: the block is inclusive of `Vx`, and `I` does not move. -/
theorem test_ldMemVx :
    after 0xF255 { regs [(0, 0x11), (1, 0x22), (2, 0x33), (3, 0x44)] with i := 0x400, mem := [(0x403, 0x99)] }
        (fun t => (t.readByte 0x400, t.readByte 0x401, t.readByte 0x402, t.readByte 0x403, t.i))
      = some (0x11, 0x22, 0x33, 0x99, 0x400) := by decide

/-- IM-13: `x = 0` stores one byte. -/
theorem test_ldMemVx_one :
    after 0xF055 { regs [(0, 0x11), (1, 0x22)] with i := 0x400 } (fun t => (t.readByte 0x400, t.readByte 0x401))
      = some (0x11, 0) := by decide

/-- IM-15. -/
theorem test_ldVxMem :
    after 0xF265 { regs [(3, 0x77)] with i := 0x300, mem := [(0x300, 2), (0x301, 3), (0x302, 4), (0x303, 5)] }
        (fun t => (t.getV 0, t.getV 1, t.getV 2, t.getV 3, t.i))
      = some (2, 3, 4, 0x77, 0x300) := by decide

/-! ### Display -/

/-- CLS-1. -/
theorem test_cls :
    after 0x00E0 { regs [(0xF, 0x55)] with fb := (base.fb.flip 1 1).flip 63 31 }
        (fun t => (decide (t.fb = Framebuffer.clear), t.rd, t.getV 0xF))
      = some (true, true, 0x55) := by decide

/-- DRW-1, DRW-4: the wrapped column, and a partial collision. -/
theorem test_drw :
    after 0xD011 { regs [(0, 63)] with i := 0x300, mem := [(0x300, 0xC0)] }
        (fun t => (decide (t.fb = (base.fb.flip 63 0).flip 0 0), t.getV 0xF, t.rd))
      = some (true, 0, true) ∧
    after 0xD011 { base with i := 0x300, mem := [(0x300, 0xC0)], fb := base.fb.flip 0 0 }
        (fun t => (decide (t.fb = base.fb.flip 1 0), t.getV 0xF))
      = some (true, 1) := by decide

/-- DRW-9, DRW-7: sprite rows across the end of memory, and `x = 15` read before `VF` is written. -/
theorem test_drw_wraps :
    after 0xD012 { base with i := 0x0FFF, mem := [(0, 0x40), (0xFFF, 0x80)] }
        (fun t => (decide (t.fb = (base.fb.flip 0 0).flip 1 1), t.getV 0xF))
      = some (true, 0) ∧
    after 0xDF11 { regs [(0xF, 10), (1, 2)] with i := 0x300, mem := [(0x300, 0x80)] }
        (fun t => (decide (t.fb = base.fb.flip 10 2), t.getV 0xF))
      = some (true, 0) := by decide

/-! ### Keypad and timers -/

/-- KT-1, KT-3. -/
theorem test_skp :
    after 0xE29E { regs [(2, 7)] with pc := 0x208, keys := pressed [8] } (fun t => t.pc) = some 0x20A ∧
    after 0xE29E { regs [(2, 0x17)] with pc := 0x208, keys := pressed [7] } (fun t => t.pc) = some 0x20C := by decide

/-- KT-5, KT-6. -/
theorem test_sknp :
    after 0xE2A1 { regs [(2, 7)] with pc := 0x208 } (fun t => t.pc) = some 0x20C ∧
    after 0xE2A1 { regs [(2, 0xF0)] with pc := 0x208, keys := pressed [0] } (fun t => t.pc) = some 0x20A := by decide

/-- KT-9. -/
theorem test_ldVxDt : after 0xF107 { base with dt := 2 } (fun t => (t.getV 1, t.dt)) = some (2, 1) := by decide

/-- S8: waiting ticks the timers and keeps `PC`. -/
theorem test_ldVxK_waits :
    after 0xF20A { regs [(2, 0x99)] with pc := 0x206, dt := 2, st := 5 } (fun t => (t.pc, t.getV 2, t.dt, t.st))
      = some (0x206, 0x99, 1, 4) := by decide

/-- S8: the key that is pressed. -/
theorem test_ldVxK :
    after 0xF20A { regs [(2, 0x99)] with pc := 0x206, keys := pressed [7] } (fun t => (t.pc, t.getV 2)) = some (0x208, 7) := by
  decide

/-- KT-11, KT-12. -/
theorem test_ldDtVx :
    after 0xF015 (regs [(0, 3)]) (fun t => t.dt) = some 2 ∧ after 0xF015 { base with dt := 9 } (fun t => t.dt) = some 0 := by
  decide

/-- KT-14, KT-15. -/
theorem test_ldStVx :
    after 0xF118 (regs [(1, 0x10)]) (fun t => (t.st, t.soundActive)) = some (0x0F, true) ∧
    after 0xF118 (regs [(1, 1)]) (fun t => (t.st, t.soundActive)) = some (0, false) := by decide

/-! ### Host operations -/

/-- HO-4: a load writes its bytes and nothing else. -/
theorem test_loadProgram :
    ∀ t, (hostApply (.loadProgram [0x12, 0x00]) { base with mem := [(0x202, 0x77)], pc := 0x300 }).2 = t →
      (t.readByte 0x200, t.readByte 0x201, t.readByte 0x202, t.pc) = (0x12, 0x00, 0x77, 0x300) := by
  rintro _ rfl; decide

/-- The state HO-5 starts from. -/
def dirty : State :=
  { base with
    pc := 0x456, sp := 2, halt := some .stackOverflow, rd := true
    mem := [(0, 1), (0x100, 0x55), (0x200, 0x12), (0x300, 9)] }

/-- HO-5: the reserved area is repaired, the program area kept, the halt cleared. -/
theorem test_reset :
    ∀ t, (hostApply .reset dirty).2 = t →
      (t.readByte 0, t.readByte 0x100, t.readByte 0x200, t.readByte 0x300) = (0xF0, 0, 0x12, 9) ∧
      (t.pc, t.sp.val, t.halt, t.rd) = (0x200, 0, none, false) := by
  rintro _ rfl; decide

/-- HO-6, HO-7. -/
theorem test_setKeys_and_tick :
    (hostApply (.setKeys (pressed [1, 15])) { base with keys := pressed [4] }).2.pressedKeys = [1, 15] ∧
    (hostApply .timerTick { base with dt := 1 }).2.dt = 0 := by decide

/-! ### Every row runs as the first instruction after reset, the font and the random input unknown -/

/-- The canonical word of every row, placed at reset, steps to a next state. -/
theorem test_rows_run_from_reset :
    ∀ i ∈ sampleInstrs, after (encode i).toNat State.reset (fun _ => ()) = some () := by decide

/-- So do the longest draw, store and load. -/
theorem test_long_forms_run_from_reset :
    ∀ w ∈ [0xD01F, 0xDFFF, 0xFF55, 0xFF65, 0xFF33], after w State.reset (fun _ => ()) = some () := by decide

/-! ### Witnesses: for every statement with hypotheses, a state and operands that meet all of them -/

/-- A running machine that fetches word `w` at `0x200`. -/
def at200 (w : Word) (s : State) : State := s.placeWord w

theorem witness_DecodeLosesOnlyIgnoredBits : decode 0x512F = .ok (.seReg 1 2) ∧ decode 0x81A6 = .ok (.shr 1) := by decide

theorem witness_DispatchSelectsTheMatchingRow :
    (⟨"CLS", 0x00E0, 0xFFFF⟩ ∈ opcodeMap ∧ (0x00E0 : Word) &&& 0xFFFF = 0x00E0) ∧
    (⟨"LD_Vx___I", 0xF065, 0xF0FF⟩ ∈ opcodeMap ∧ (0xF265 : Word) &&& 0xF0FF = 0xF065) ∧ opcodeMap.length = 34 := by decide

/-- One word for each line of R99, at the edge of its range, and the recognized neighbour. -/
theorem witness_UnrecognizedWordsAreTheListed :
    decode 0x00EF = .error (.unrecognized 0x00EF) ∧ decode 0x8008 = .error (.unrecognized 0x8008) ∧
    decode 0x800F = .error (.unrecognized 0x800F) ∧ decode 0xE09D = .error (.unrecognized 0xE09D) ∧
    decode 0xF066 = .error (.unrecognized 0xF066) ∧ decode 0x8007 = .ok (.subn 0 0) ∧ decode 0x800E = .ok (.shl 0) := by decide

theorem witness_CanonicalMemoryIsUnique :
    Memory.wf Config.defaultFont [(0, 0x01), (0x300, 0x09)] ∧ ¬ Memory.wf Config.defaultFont [(0, 0xF0)] ∧
    Memory.read Config.defaultFont [(0, 0x01), (0x300, 0x09)] 0x300 ≠ Memory.read Config.defaultFont [] 0x300 := by decide

theorem witness_StepRunsTheDecodedInstruction :
    (at200 0x7001 base).halt = none ∧ decode (at200 0x7001 base).fetchWord = .ok (.addImm 0 1) := by decide

theorem witness_HaltedMachineStaysAsItIs :
    State.halt { base with halt := some .stackOverflow } = some .stackOverflow := by decide

theorem witness_UnrecognizedWordIsReportedAndSkipped :
    base.halt = none ∧ decode base.fetchWord = .error (.unrecognized base.fetchWord) := by decide

theorem witness_TickFollowsEveryInstruction :
    (at200 0xF107 base).halt = none ∧ decode (at200 0xF107 base).fetchWord = .ok (.ldVxDt 1) ∧
    decode (at200 0xF015 base).fetchWord = .ok (.ldDtVx 0) ∧ decode (at200 0xF118 base).fetchWord = .ok (.ldStVx 1) ∧
    ∃ u, runWord (at200 0xF107 base).fetchWord (at200 0xF107 base) = .next u ∧ u.halt = none :=
  ⟨by decide, by decide, by decide, by decide, _, rfl, by decide⟩

theorem witness_FatalCycleWritesOnlyHalt :
    (base.halt = none ∧ decode (at200 0x00EE base).fetchWord = .ok .ret ∧ base.sp.val = 0) ∧
    (decode (at200 0x2ABC base).fetchWord = .ok (.call 0xABC) ∧ (State.sp { base with sp := 16 }).val = 16) := by decide

theorem witness_OnlyCallAndReturnHalt :
    (∃ t, exec .ret base = .next t ∧ t.halt ≠ base.halt) ∧
    ∃ t, exec (.call 0x200) { base with sp := 16 } = .next t ∧ t.halt ≠ base.halt :=
  ⟨⟨_, rfl, by decide⟩, ⟨_, rfl, by decide⟩⟩

theorem witness_EveryInstructionAnswersANextState : base.halt = none := by decide

/-- A row for each kind of line in R125's table. -/
theorem witness_ProgramCounterRule :
    (∃ t, exec (.ldVxK 0) base = .next t) ∧ (∃ t, exec (.call 0x200) base = .next t) ∧ (∃ t, exec .ret base = .next t) ∧
    (∃ t, exec (.seImm 0 0) base = .next t) ∧ ∃ t, exec (.ldF 0) base = .next t :=
  ⟨⟨_, rfl⟩, ⟨_, rfl⟩, ⟨_, rfl⟩, ⟨_, rfl⟩, ⟨_, rfl⟩⟩

theorem witness_WriteSetsAreComplete :
    ∃ t, exec (.ldVxMem 2) base = .next t ∧ (3 : Nibble) ∉ writtenRegs (.ldVxMem 2) ∧
      Part.memory ∉ writtenParts (.ldVxMem 2) :=
  ⟨_, rfl, by decide, by decide⟩

theorem witness_JumpSetsTheProgramCounter : base.pc.toNat = (0x200 : Addr12).toNat := by decide

theorem witness_CallPushesTheReturnAddress : base.sp.val < 16 ∧ (State.sp { base with sp := 15 }).val < 16 := by decide

theorem witness_ReturnPopsTheProgramCounter :
    (State.sp { base with sp := 1 }).val ≠ 0 ∧ (State.sp { base with sp := 16 }).val ≠ 0 := by decide

theorem witness_ReturnUndoesCall : base.sp.val < 16 ∧ (State.sp { base with sp := 15 }).val < 16 := by decide

theorem witness_RegisterSkipsCompare : (0 : Nibble) = 0 ∧ (15 : Nibble) = 15 := by decide

theorem witness_LogicIsBitwiseAndSetsNoFlag : 0 < 8 ∧ 7 < 8 := by decide

theorem witness_AddRegistersSetsTheCarry :
    (14 : Nibble) ≠ vf ∧ 255 < ((regs [(0, 0xFF), (1, 1)]).getV 0).toNat + ((regs [(0, 0xFF), (1, 1)]).getV 1).toNat := by decide

theorem witness_SubtractionsSetTheGreaterFlag : (14 : Nibble) ≠ vf ∧ greaterBit 1 0 = 1 ∧ greaterBit 1 1 = 0 := by decide

theorem witness_ShiftsMoveOneBitOut : (14 : Nibble) ≠ vf ∧ (15 : Nibble) = vf := by decide

theorem witness_RandomIsMaskedInput : 0 < 8 ∧ 7 < 8 := by decide

/-- Bytes outside the three stored, on both sides of the end of memory. -/
theorem witness_DecimalDigitsAreStored :
    (∀ k, k < 3 → a12 1 ≠ a12 (State.indexAddr { base with i := 0xFFE } 0 + k)) ∧
    ∀ k, k < 3 → a12 0xFFD ≠ a12 (State.indexAddr { base with i := 0xFFE } 0 + k) := by decide

theorem witness_RegistersAreStored :
    (0 : Nibble).toNat ≤ (0 : Nibble).toNat ∧ (15 : Nibble).toNat ≤ (15 : Nibble).toNat ∧
    ∀ k, k < 16 → a12 0x410 ≠ a12 (State.indexAddr { base with i := 0x400 } 0 + k) := by decide

theorem witness_LoadUndoesStore : (7 : Nibble).toNat ≤ (7 : Nibble).toNat ∧ (7 : Nibble).toNat < (8 : Nibble).toNat := by decide

theorem witness_StoredBytesAreFetched : 0 < (1 : Nibble).toNat ∧ 14 < (15 : Nibble).toNat := by decide

/-- DRW-4's state: a sprite row 0xC0 at `(0, 0)`, with pixel `(0, 0)` lit. -/
def drawState : State := { base with i := 0x300, mem := [(0x300, 0xC0)], fb := base.fb.flip 0 0 }

/-- A covered pixel that was lit (a collision), a covered pixel that was dark, and a pixel that is not covered. -/
theorem witness_DrawIsPointwiseXor :
    (SpriteCovers drawState 0 1 1 0 0 ∧ drawState.fb.pixel 0 0 = true) ∧
    (SpriteCovers drawState 0 1 1 1 0 ∧ drawState.fb.pixel 1 0 = false) ∧ ¬ SpriteCovers drawState 0 1 1 2 0 := by
  refine ⟨⟨⟨0, 0, by decide⟩, by decide⟩, ⟨⟨0, 1, by decide⟩, by decide⟩, ?_⟩
  rintro ⟨row, col, hr, hc, hx, -, hb⟩
  obtain rfl : row = 0 := by simpa using hr
  have h2 : ∀ col < 8, 2 = col % 64 → ¬ (drawState.readByte 0x300).getLsbD (7 - col) = true := by decide
  exact h2 col hc (by simpa [drawState, base, State.reset, State.getV] using hx) hb

/-- No set sprite bit falls on a lit pixel: an empty sprite. -/
theorem witness_DrawIsPointwiseXor_no_collision :
    ¬ ∃ px py, SpriteCovers drawState 0 1 0 px py ∧ drawState.fb.pixel px py = true := by
  rintro ⟨px, py, ⟨row, col, hr, -⟩, -⟩
  exact absurd hr (by simp)

theorem witness_DrawingTwiceRestoresTheScreen : (0 : Nibble) ≠ vf ∧ (14 : Nibble) ≠ vf := by decide

theorem witness_DelayTimerIsReadBeforeTheTick :
    base.halt = none ∧ decode (at200 0xF107 base).fetchWord = .ok (.ldVxDt 1) ∧ (at200 0xF107 base).halt = none := by decide

/-- Several keys pressed, and exactly one. -/
theorem witness_KeyWaitReportsAPressedKey :
    (State.keyDown { base with keys := pressed [7, 10] } 10 = true) ∧
    State.keyDown { base with keys := pressed [7] } 7 = true ∧
    ∀ l : Nibble, State.keyDown { base with keys := pressed [7] } l = true → l = 7 := by decide

theorem witness_KeyWaitLeavesTheStateAlone :
    (∀ k : Nibble, (at200 0xF20A base).keyDown k = false) ∧ (at200 0xF20A base).halt = none ∧
    decode (at200 0xF20A base).fetchWord = .ok (.ldVxK 2) := by decide

theorem witness_DelayTimerIsSet :
    (at200 0xF015 base).halt = none ∧ decode (at200 0xF015 base).fetchWord = .ok (.ldDtVx 0) := by decide

theorem witness_SoundTimerIsSet :
    (at200 0xF118 base).halt = none ∧ decode (at200 0xF118 base).fetchWord = .ok (.ldStVx 1) := by decide

/-- A state with a listed byte, a report and a precise halt, other than the state after `Create`. -/
def busy : State :=
  { base with mem := [(0x300, 0x09)], reports := [⟨0x200, 0x0123⟩], sp := 3 }

theorem busy_inv : busy.Inv where
  memory := by decide
  halt := by unfold State.haltPrecise; decide
  reports := by unfold State.reportsGenuine; decide

theorem witness_StepKeepsTheInvariant :
    (busy.withFetchWord 16 0xF055).Inv ∧ ∃ t, step (busy.withFetchWord 16 0xF055) = .next t :=
  ⟨⟨by decide, by unfold State.haltPrecise; decide, by unfold State.reportsGenuine; decide⟩,
    (next_of_after (f := fun t => t.halt) (a := none) (by decide)).imp fun _ h => h.1⟩

theorem witness_HostOperationsKeepTheInvariant : busy.Inv := busy_inv

theorem witness_ObserversNeverAffectExecution :
    State.eraseObservers { base with st := 5, rd := true, reports := [⟨0x200, 0x0123⟩] } = base.eraseObservers := rfl

theorem witness_StaleStackEntriesAreInvisible :
    (∀ k (h : k < 16), k < (State.sp { base with sp := 1 }).val → (base.stack.set 1 0x206)[k] = base.stack[k]) ∧
    ∃ t, step (State.withFetchWord { base with sp := 1 } 16 0x00EE) = .next t ∧ t.halt = none :=
  ⟨by decide, next_of_after (f := fun t => t.halt) (by decide)⟩

theorem witness_ResetKeepsTheProgramArea : 0x200 ≤ 0x200 ∧ 0x200 < 4096 ∧ 0x200 ≤ 0xFFF ∧ 0xFFF < 4096 := by decide

theorem witness_OversizedProgramsAreRefused :
    3584 < (List.replicate 3585 (0x12 : Byte)).length ∧ (List.replicate 3584 (0x12 : Byte)).length ≤ 3584 ∧
    3583 < (List.replicate 3584 (0x12 : Byte)).length := by
  simp only [List.length_replicate]; omega

/-- A loaded program, and an address on each side of it. -/
theorem witness_LoadingWritesOnlyTheProgram :
    (∃ t, hostApply (.loadProgram [0x12, 0x00]) base = (.ok, t)) ∧
    (0x1FF < 4096 ∧ 0x1FF < 0x200) ∧ (0x202 < 4096 ∧ 0x200 + [0x12, 0x00].length ≤ 0x202) :=
  ⟨⟨_, rfl⟩, by decide, by decide⟩

theorem witness_HostTickIsTheTick : base.halt = none := by decide

theorem witness_OnlyCreateAndResetClearTheHalt :
    State.halt { base with halt := some .stackUnderflow } = some .stackUnderflow ∧
    (applyMove (.host .create) { base with halt := some .stackUnderflow }).halt ≠ some .stackUnderflow ∧
    (applyMove (.host .reset) { base with halt := some .stackUnderflow }).halt ≠ some .stackUnderflow := by decide

end Sys2Proof.Tests
end

/-! ### The six fields of a word as numbers (spec/00_scope.md R9) -/

namespace Sys2Proof

/-- A cut of `k` bits from bit `i` up, read as an unsigned number: the shape of every field of R9. -/
theorem toNat_cut (w : Word) (i k : Nat) : (w.extractLsb' i k).toNat = w.toNat / 2 ^ i % 2 ^ k := by
  rw [BitVec.extractLsb'_toNat, Nat.shiftRight_eq_div_pow]

theorem toNat_lowCut (w : Word) (k : Nat) : (w.extractLsb' 0 k).toNat = w.toNat % 2 ^ k := by
  rw [toNat_cut, Nat.pow_zero, Nat.div_one]

/-- The topmost field needs no reduction: a word has only four bits above bit 11. -/
@[simp] theorem toNat_fam_fieldsOf (w : Word) : (fieldsOf w).fam.toNat = w.toNat / 4096 :=
  (toNat_cut w 12 4).trans (Nat.mod_eq_of_lt (Nat.div_lt_of_lt_mul w.isLt))

@[simp] theorem toNat_x_fieldsOf (w : Word) : (fieldsOf w).x.toNat = w.toNat / 256 % 16 := toNat_cut w 8 4

@[simp] theorem toNat_y_fieldsOf (w : Word) : (fieldsOf w).y.toNat = w.toNat / 16 % 16 := toNat_cut w 4 4

@[simp] theorem toNat_n_fieldsOf (w : Word) : (fieldsOf w).n.toNat = w.toNat % 16 := toNat_lowCut w 4

@[simp] theorem toNat_kk_fieldsOf (w : Word) : (fieldsOf w).kk.toNat = w.toNat % 256 := toNat_lowCut w 8

@[simp] theorem toNat_nnn_fieldsOf (w : Word) : (fieldsOf w).nnn.toNat = w.toNat % 4096 := toNat_lowCut w 12

theorem toNat_kk_eq_y_n (w : Word) :
    (fieldsOf w).kk.toNat = (fieldsOf w).y.toNat * 16 + (fieldsOf w).n.toNat := by
  simp only [toNat_kk_fieldsOf, toNat_y_fieldsOf, toNat_n_fieldsOf]
  omega

theorem toNat_nnn_eq_x_kk (w : Word) :
    (fieldsOf w).nnn.toNat = (fieldsOf w).x.toNat * 256 + (fieldsOf w).kk.toNat := by
  simp only [toNat_nnn_fieldsOf, toNat_x_fieldsOf, toNat_kk_fieldsOf]
  omega

/-- Settles O1: the value of each field, then the two overlaps as arithmetic on those values. -/
theorem fieldsAreCutFromTheWord : Obligations.FieldsAreCutFromTheWord := fun w =>
  ⟨toNat_fam_fieldsOf w, toNat_x_fieldsOf w, toNat_y_fieldsOf w, toNat_n_fieldsOf w, toNat_kk_fieldsOf w,
    toNat_nnn_fieldsOf w, toNat_kk_eq_y_n w, toNat_nnn_eq_x_kk w⟩

end Sys2Proof

/-! ### Decoding the formats NNN and XKK (spec/30_encoding.md R91, R94) -/

namespace Sys2Proof

@[simp] theorem fam_fieldsOf_wordNNN (fam : Nibble) (nnn : Addr12) : (fieldsOf (wordNNN fam nnn)).fam = fam := by
  have := nnn.isLt
  apply BitVec.eq_of_toNat_eq
  rw [toNat_fam_fieldsOf, toNat_wordNNN]
  omega

@[simp] theorem nnn_fieldsOf_wordNNN (fam : Nibble) (nnn : Addr12) : (fieldsOf (wordNNN fam nnn)).nnn = nnn := by
  have := nnn.isLt
  apply BitVec.eq_of_toNat_eq
  rw [toNat_nnn_fieldsOf, toNat_wordNNN]
  omega

@[simp] theorem fam_fieldsOf_wordXKK (fam x : Nibble) (kk : Byte) : (fieldsOf (wordXKK fam x kk)).fam = fam := by
  have := x.isLt
  have := kk.isLt
  apply BitVec.eq_of_toNat_eq
  rw [toNat_fam_fieldsOf, toNat_wordXKK]
  omega

@[simp] theorem x_fieldsOf_wordXKK (fam x : Nibble) (kk : Byte) : (fieldsOf (wordXKK fam x kk)).x = x := by
  have := x.isLt
  have := kk.isLt
  apply BitVec.eq_of_toNat_eq
  rw [toNat_x_fieldsOf, toNat_wordXKK]
  omega

@[simp] theorem kk_fieldsOf_wordXKK (fam x : Nibble) (kk : Byte) : (fieldsOf (wordXKK fam x kk)).kk = kk := by
  have := kk.isLt
  apply BitVec.eq_of_toNat_eq
  rw [toNat_kk_fieldsOf, toNat_wordXKK]
  omega

theorem decode_jp (nnn : Addr12) : decode (wordNNN 0x1 nnn) = .ok (.jp nnn) := by
  simp [decode_eq_ok, selectInstr]

theorem decode_jpV0 (nnn : Addr12) : decode (wordNNN 0xB nnn) = .ok (.jpV0 nnn) := by
  simp [decode_eq_ok, selectInstr]

theorem decode_seImm (x : Nibble) (kk : Byte) : decode (wordXKK 0x3 x kk) = .ok (.seImm x kk) := by
  simp [decode_eq_ok, selectInstr]

theorem decode_sneImm (x : Nibble) (kk : Byte) : decode (wordXKK 0x4 x kk) = .ok (.sneImm x kk) := by
  simp [decode_eq_ok, selectInstr]

end Sys2Proof

/-! ### Control transfer (spec/41_control_transfer.md) -/

namespace Sys2Proof.Machine

/-- A jump writes `PC` alone. -/
theorem Framed.jumpTo (s : State) (w : Word) : Framed [] [] s (s.jumpTo w) :=
  ⟨fun _ _ => rfl, fun p _ => by cases p <;> simp [Part.same]⟩

/-- A skip is a jump to `PC + 4` or `PC + 2`, so it writes `PC` alone. -/
theorem Framed.skipIf (s : State) (c : Bool) : Framed [] [] s (s.skipIf c) := Framed.jumpTo s _

theorem State.jumpTo_eq_self (s : State) (w : Word) (h : s.pc = w) : s.jumpTo w = s := by
  subst h
  rfl

/-- Both distances of a skip wrap at 16 bits (R24, R125). -/
theorem State.toNat_pc_skipIf (s : State) (c : Bool) :
    (s.skipIf c).pc.toNat = (s.pc.toNat + if c then 4 else 2) % 65536 := by
  cases c <;> simp

/-- The sum of R147 never reaches `2^16`, so forming it at 16 bits loses nothing. -/
theorem toNat_zext16_add_zextByte (nnn : Addr12) (b : Byte) :
    (zext16 nnn + zextByte b).toNat = nnn.toNat + b.toNat := by
  have := nnn.isLt
  have := b.isLt
  rw [BitVec.toNat_add, toNat_zext16, toNat_zextByte]
  omega

theorem exec_jp (nnn : Addr12) (s : State) : exec (.jp nnn) s = .next (s.jumpTo (zext16 nnn)) := rfl

theorem exec_jpV0 (nnn : Addr12) (s : State) :
    exec (.jpV0 nnn) s = .next (s.jumpTo (zext16 nnn + zextByte (s.getV 0))) := rfl

theorem exec_seImm (x : Nibble) (kk : Byte) (s : State) :
    exec (.seImm x kk) s = .next (s.skipIf (s.getV x == kk)) := rfl

theorem exec_sneImm (x : Nibble) (kk : Byte) (s : State) :
    exec (.sneImm x kk) s = .next (s.skipIf (s.getV x != kk)) := rfl

end Sys2Proof.Machine

namespace Sys2Proof

open Machine

/-- Settles O18: the self-jump writes to `PC` the value it already has. -/
theorem jumpSetsTheProgramCounter : Obligations.JumpSetsTheProgramCounter := by
  intro nnn s
  refine ⟨decode_jp nnn, _, exec_jp nnn s, toNat_zext16 nnn, Framed.jumpTo s _, fun hself => ?_⟩
  have hpc : s.pc = zext16 nnn := BitVec.eq_of_toNat_eq (hself.trans (toNat_zext16 nnn).symm)
  exact s.jumpTo_eq_self _ hpc

/-- Settles O22: both skips are `skipIf`, with the comparison of the two bytes read as numbers. -/
theorem immediateSkipsCompare : Obligations.ImmediateSkipsCompare := by
  intro x kk s
  refine ⟨⟨decode_seImm x kk, _, exec_seImm x kk s, ?_, Framed.skipIf s _⟩,
    decode_sneImm x kk, _, exec_sneImm x kk s, ?_, Framed.skipIf s _⟩
  · simp only [State.toNat_pc_skipIf, beq_iff_eq, BitVec.toNat_inj]
  · simp only [State.toNat_pc_skipIf, bne_iff_ne, ne_eq, BitVec.toNat_inj]

/-- Settles O24: the jump's frame with the exact sum as its target. -/
theorem indexedJumpAddsV0 : Obligations.IndexedJumpAddsV0 := fun nnn s =>
  ⟨decode_jpV0 nnn, _, exec_jpV0 nnn s, toNat_zext16_add_zextByte nnn (s.getV 0), Framed.jumpTo s _⟩

end Sys2Proof

/-! ### Decoding the format XYN (spec/30_encoding.md R91, R94) -/

namespace Sys2Proof

/-- Read as format XKK, a word of format XYN has its two low nibbles as the byte `kk`. -/
theorem wordXYN_eq_wordXKK (fam x y n : Nibble) : wordXYN fam x y n = wordXKK fam x (y ++ n) := rfl

@[simp] theorem fam_fieldsOf_wordXYN (fam x y n : Nibble) : (fieldsOf (wordXYN fam x y n)).fam = fam :=
  fam_fieldsOf_wordXKK fam x (y ++ n)

@[simp] theorem x_fieldsOf_wordXYN (fam x y n : Nibble) : (fieldsOf (wordXYN fam x y n)).x = x :=
  x_fieldsOf_wordXKK fam x (y ++ n)

@[simp] theorem y_fieldsOf_wordXYN (fam x y n : Nibble) : (fieldsOf (wordXYN fam x y n)).y = y := by
  have := y.isLt
  have := n.isLt
  apply BitVec.eq_of_toNat_eq
  rw [toNat_y_fieldsOf, toNat_wordXYN]
  omega

@[simp] theorem n_fieldsOf_wordXYN (fam x y n : Nibble) : (fieldsOf (wordXYN fam x y n)).n = n := by
  have := n.isLt
  apply BitVec.eq_of_toNat_eq
  rw [toNat_n_fieldsOf, toNat_wordXYN]
  omega

theorem decode_ldImm (x : Nibble) (kk : Byte) : decode (wordXKK 0x6 x kk) = .ok (.ldImm x kk) := by
  simp [decode_eq_ok, selectInstr]

theorem decode_addImm (x : Nibble) (kk : Byte) : decode (wordXKK 0x7 x kk) = .ok (.addImm x kk) := by
  simp [decode_eq_ok, selectInstr]

theorem decode_ldReg (x y : Nibble) : decode (wordXYN 0x8 x y 0x0) = .ok (.ldReg x y) := by
  simp [decode_eq_ok, selectInstr, family8]

end Sys2Proof

/-! ### Loads and arithmetic without a flag (spec/42_load_and_alu.md R160 to R162) -/

namespace Sys2Proof.Machine

/-- A register write changes that register alone. -/
theorem Framed.setV (s : State) (x : Nibble) (b : Byte) : Framed [x] [] s (s.setV x b) :=
  ⟨fun r hr => s.getV_setV_ne x r b (List.ne_of_not_mem_cons hr), fun p _ => by cases p <;> simp [Part.same]⟩

/-- Advancing writes `PC` alone, so it keeps every frame. -/
theorem Framed.advance {regs : List Nibble} {parts : List Part} {s t : State} (h : Framed regs parts s t) :
    Framed regs parts s t.advance :=
  h.trans ⟨fun r _ => t.getV_advance r, fun p _ => by cases p <;> simp [Part.same]⟩

theorem State.toNat_pc_advance (s : State) : s.advance.pc.toNat = (s.pc.toNat + 2) % 65536 := by simp

/-- What an instruction that writes `b` to `Vx` and goes to the next word does, `VF` included when `x = 15`. -/
theorem State.setV_advance_spec (s : State) (x : Nibble) (b : Byte) :
    (s.setV x b).advance.getV x = b ∧ (s.setV x b).advance.pc.toNat = (s.pc.toNat + 2) % 65536 ∧
      Framed [x] [] s (s.setV x b).advance :=
  ⟨s.getV_setV_same x b, (s.setV x b).toNat_pc_advance, (Framed.setV s x b).advance⟩

theorem exec_ldImm (x : Nibble) (kk : Byte) (s : State) : exec (.ldImm x kk) s = .next (s.setV x kk).advance := rfl

theorem exec_addImm (x : Nibble) (kk : Byte) (s : State) :
    exec (.addImm x kk) s = .next (s.setV x (s.getV x + kk)).advance := rfl

theorem exec_ldReg (x y : Nibble) (s : State) : exec (.ldReg x y) s = .next (s.setV x (s.getV y)).advance := rfl

end Sys2Proof.Machine

namespace Sys2Proof

open Machine

/-- Settles O25: the register write with `kk` as its byte. -/
theorem loadImmediateWritesTheRegister : Obligations.LoadImmediateWritesTheRegister := fun x kk s =>
  ⟨decode_ldImm x kk, _, exec_ldImm x kk s, s.setV_advance_spec x kk⟩

/-- Settles O26: the register write of a sum of bytes, which `BitVec` addition takes modulo 256. -/
theorem addImmediateSetsNoFlag : Obligations.AddImmediateSetsNoFlag := by
  intro x kk s
  obtain ⟨hsum, hpc, hframe⟩ := s.setV_advance_spec x (s.getV x + kk)
  refine ⟨decode_addImm x kk, _, exec_addImm x kk s, ?_, hpc, hframe⟩
  rw [hsum, BitVec.toNat_add]

/-- Settles O27: the register write with `Vy` as its byte. -/
theorem copyRegister : Obligations.CopyRegister := fun x y s =>
  ⟨decode_ldReg x y, _, exec_ldReg x y s, s.setV_advance_spec x (s.getV y)⟩

end Sys2Proof

/-! ### Clearing the screen (spec/44_display.md R210) -/

namespace Sys2Proof

theorem decode_cls : decode 0x00E0 = .ok .cls := by decide

end Sys2Proof

namespace Sys2Proof.Machine

/-- Putting a picture on the screen writes the pixels and the redraw flag alone, whatever the picture. -/
theorem Framed.paint (s : State) (fb : Framebuffer) :
    Framed [] [.pixels, .redraw] s { s with fb := fb, rd := true } := by
  refine ⟨fun _ _ => rfl, fun p hp => ?_⟩
  cases p with
  | pixels | redraw => simp at hp
  | memory => exact fun _ => rfl
  | stack | random => exact ⟨rfl, rfl⟩
  | _ => rfl

theorem exec_cls (s : State) : exec .cls s = .next { s with fb := Framebuffer.clear, rd := true }.advance := rfl

end Sys2Proof.Machine

namespace Sys2Proof

open Machine

/-- Settles O40: the clear picture is painted, which sets `RD` without looking at the old screen. -/
theorem clearScreenDarkensEveryPixel : Obligations.ClearScreenDarkensEveryPixel :=
  ⟨decode_cls, fun s => ⟨_, exec_cls s, Framebuffer.pixel_clear, rfl, State.toNat_pc_advance _,
    (Framed.paint s Framebuffer.clear).advance⟩⟩

end Sys2Proof

/-! ### Decoding family F: the delay timer (spec/30_encoding.md R97) -/

namespace Sys2Proof

theorem decode_ldVxDt (x : Nibble) : decode (wordXKK 0xF x 0x07) = .ok (.ldVxDt x) := by
  simp [decode_eq_ok, selectInstr, familyF]

theorem decode_ldDtVx (x : Nibble) : decode (wordXKK 0xF x 0x15) = .ok (.ldDtVx x) := by
  simp [decode_eq_ok, selectInstr, familyF]

end Sys2Proof

/-! ### The whole step of an instruction, and the delay timer (spec/45_keypad_and_timers.md R232, R234) -/

namespace Sys2Proof.Machine

theorem runWord_of_decode {w : Word} {i : Instr} (hdec : decode w = .ok i) (s : State) : runWord w s = exec i s := by
  simp only [runWord, hdec]

theorem endCycle_running (s : State) (h : s.halt = none) : endCycle s = s.tick := hostTimerTick_running s h

/-- The whole step of an instruction that does not halt: its effect, then the tick (R124, R127). -/
theorem step_of_exec {s t : State} {i : Instr} (hs : s.halt = none) (hdec : decode s.fetchWord = .ok i)
    (hexec : exec i s = .next t) (ht : t.halt = none) : step s = .next t.tick := by
  have hrun : runWord s.fetchWord s = .next t := (runWord_of_decode hdec s).trans hexec
  rw [step_running s t hs hrun, endCycle_running t ht]

/-- Writing the delay timer changes that part alone. -/
theorem Framed.setDt (s : State) (b : Byte) : Framed [] [.delay] s (s.setDt b) :=
  ⟨fun r _ => s.getV_setDt b r, fun p hp => by cases p <;> simp_all [Part.same]⟩

theorem exec_ldVxDt (x : Nibble) (s : State) : exec (.ldVxDt x) s = .next (s.setV x s.dt).advance := rfl

theorem exec_ldDtVx (x : Nibble) (s : State) : exec (.ldDtVx x) s = .next (s.setDt (s.getV x)).advance := rfl

end Sys2Proof.Machine

namespace Sys2Proof

open Machine

/-- Settles O44: the register write of `DT` comes before the tick, and the tick leaves the registers alone. -/
theorem delayTimerIsReadBeforeTheTick : Obligations.DelayTimerIsReadBeforeTheTick := by
  intro x s
  obtain ⟨hreg, hpc, hframe⟩ := s.setV_advance_spec x s.dt
  refine ⟨decode_ldVxDt x, ⟨_, exec_ldVxDt x s, hreg, hpc, hframe⟩, fun hrun hdec => ?_⟩
  have hstep := step_of_exec hrun hdec (exec_ldVxDt x s) hrun
  exact ⟨_, hstep, hreg, State.toNat_tick_dt _⟩

/-- Settles O47: the write of `DT` comes before the tick, which takes 1 from the byte just written. -/
theorem delayTimerIsSet : Obligations.DelayTimerIsSet := by
  intro x s
  refine ⟨decode_ldDtVx x, ⟨_, exec_ldDtVx x s, rfl, State.toNat_pc_advance _, (Framed.setDt s (s.getV x)).advance⟩,
    fun hrun hdec => ?_⟩
  have hstep := step_of_exec hrun hdec (exec_ldDtVx x s) hrun
  exact ⟨_, hstep, State.toNat_tick_dt _⟩

end Sys2Proof

/-! ### The bridge's keys, screen and redraw flag (R269 to R271): no operation looks at the halt latch -/

namespace Sys2Proof.Machine

theorem hostApply_setKeys (ks : Vector Bool 16) (s : State) : hostApply (.setKeys ks) s = (.ok, hostSetKeys ks s) := rfl

theorem keyDown_hostSetKeys (ks : Vector Bool 16) (s : State) (k : Nibble) :
    (hostSetKeys ks s).keyDown k = ks[k.toNat]'(k.isLt) := rfl

/-- Overwriting the latches changes that part alone. -/
theorem Framed.hostSetKeys (ks : Vector Bool 16) (s : State) : Framed [] [.keys] s (hostSetKeys ks s) :=
  ⟨fun _ _ => rfl, fun p hp => by cases p <;> simp_all [Part.same, State.readByte, Machine.hostSetKeys]⟩

theorem hostApply_framebufferSnapshot (s : State) : hostApply .framebufferSnapshot s = (.grid s.fb, s) := rfl

theorem hostApply_consumeRedrawFlag (s : State) :
    hostApply .consumeRedrawFlag s = (.flag s.rd, { s with rd := false }) := rfl

/-- Clearing the redraw flag changes that part alone. -/
theorem Framed.clearRedraw (s : State) : Framed [] [.redraw] s { s with rd := false } :=
  ⟨fun _ _ => rfl, fun p hp => by cases p <;> simp_all [Part.same, State.readByte]⟩

end Sys2Proof.Machine

namespace Sys2Proof

open Machine

/-- Settles O58: the latches and the flag are each one write with its frame, and the second call finds the flag that the
first one cleared. -/
theorem bridgeSetsKeysAndReadsTheScreen : Obligations.BridgeSetsKeysAndReadsTheScreen := by
  intro s
  refine ⟨fun ks => ?_, ?_, ?_⟩
  · exact ⟨_, hostApply_setKeys ks s, keyDown_hostSetKeys ks s, Framed.hostSetKeys ks s, rfl⟩
  · exact ⟨_, hostApply_framebufferSnapshot s, fun _ _ => rfl⟩
  · exact ⟨_, hostApply_consumeRedrawFlag s, rfl, Framed.clearRedraw s, rfl, hostApply_consumeRedrawFlag _⟩

end Sys2Proof

/-! ### `LoadProgram` (R293, R294): the length alone decides, on a halted machine as on a running one -/

namespace Sys2Proof.Machine

/-- A program of at most `ROM_MAX` bytes, the empty one included, is accepted and written from `0x200` on. -/
theorem hostApply_loadProgram_fits (bytes : List Byte) (s : State) (h : bytes.length ≤ 3584) :
    hostApply (.loadProgram bytes) s = (.ok, s.writeBytes 0x200 bytes) := by
  simp only [hostApply, hostLoadProgram_fits bytes s h]

/-- A longer one is refused with the state as it was. -/
theorem hostApply_loadProgram_exceeds (bytes : List Byte) (s : State) (h : 3584 < bytes.length) :
    hostApply (.loadProgram bytes) s = (.sizeExceeded, s) := by
  simp only [hostApply, hostLoadProgram_exceeds bytes s h]

end Sys2Proof.Machine

namespace Sys2Proof

open Machine

/-- Settles O56: a program that fits is one run of stores, too short to lap the memory, so each of its bytes reads back. -/
theorem oversizedProgramsAreRefused : Obligations.OversizedProgramsAreRefused := by
  intro bytes s
  refine ⟨hostApply_loadProgram_exceeds bytes s, fun hfits => ?_⟩
  rw [hostApply_loadProgram_fits bytes s hfits]
  have hnolap : bytes.length ≤ 4096 := by omega
  exact ⟨rfl, fun j hj => State.readByte_writeBytes_inside s 0x200 j bytes hj hnolap⟩

end Sys2Proof

/-! ### Rebuilding a word from its fields (spec/00_scope.md R9, spec/30_encoding.md R91) -/

namespace Sys2Proof

theorem eq_ofNat_of_toNat_eq {m k : Nat} {b : BitVec m} (h : b.toNat = k) : b = BitVec.ofNat m k := by
  rw [← h, BitVec.ofNat_toNat, BitVec.setWidth_eq]

theorem wordNNN_of_fam {w : Word} {fam : Nat} (hfam : (fieldsOf w).fam.toNat = fam) :
    wordNNN (BitVec.ofNat 4 fam) (fieldsOf w).nnn = w := by
  rw [← eq_ofNat_of_toNat_eq hfam]
  apply BitVec.eq_of_toNat_eq
  rw [toNat_wordNNN, toNat_fam_fieldsOf, toNat_nnn_fieldsOf]
  omega

theorem wordXKK_of_fam {w : Word} {fam : Nat} (hfam : (fieldsOf w).fam.toNat = fam) :
    wordXKK (BitVec.ofNat 4 fam) (fieldsOf w).x (fieldsOf w).kk = w := by
  rw [← eq_ofNat_of_toNat_eq hfam]
  apply BitVec.eq_of_toNat_eq
  rw [toNat_wordXKK, toNat_fam_fieldsOf, toNat_x_fieldsOf, toNat_kk_fieldsOf]
  omega

theorem wordXYN_of_fam {w : Word} {fam : Nat} (hfam : (fieldsOf w).fam.toNat = fam) :
    wordXYN (BitVec.ofNat 4 fam) (fieldsOf w).x (fieldsOf w).y (fieldsOf w).n = w := by
  rw [← eq_ofNat_of_toNat_eq hfam]
  apply BitVec.eq_of_toNat_eq
  rw [toNat_wordXYN, toNat_fam_fieldsOf, toNat_x_fieldsOf, toNat_y_fieldsOf, toNat_n_fieldsOf]
  omega

/-- Settles O3: encoding puts the operands into the fields from which dispatch, family by family, takes them again. -/
theorem decodeOfEncodeIsTheInstruction : Obligations.DecodeOfEncodeIsTheInstruction := by
  intro i
  rw [decode_eq_ok]
  cases i with
  | cls | ret => decide
  | jp | call | ldI | jpV0 | seImm | sneImm | ldImm | addImm | rnd | seReg | sneReg | drw =>
    simp [encode, selectInstr]
  | ldReg | orReg | andReg | xorReg | addReg | sub | shr | subn | shl => simp [encode, selectInstr, family8]
  | skp | sknp => simp [encode, selectInstr, familyE]
  | ldVxDt | ldVxK | ldDtVx | ldStVx | addI | ldF | ldB | ldMemVx | ldVxMem => simp [encode, selectInstr, familyF]

/-- Settles O2: seventeen of the words are canonical, so decoding gives back what they encode. -/
theorem specWordsDecode : Obligations.SpecWordsDecode := by
  have h := decodeOfEncodeIsTheInstruction
  exact ⟨h .cls, h .ret, h (.jp 0x204), h (.call 0xABC), h (.seImm 0xA 0x10), h (.sneImm 0xA 0x10), h (.seReg 1 2),
    h (.ldImm 0xA 0x3F), h (.addImm 0 0xFF), h (.addReg 0xA 0xB), h (.sneReg 1 2), h (.ldI 0x20E), h (.jpV0 0xFFF),
    h (.rnd 3 0x0F), h (.drw 1 2 0xA), h (.skp 2), h (.ldB 0), by decide⟩

end Sys2Proof

/-! ### Which bits of a word its instruction keeps (spec/30_encoding.md R98, R101) -/

namespace Sys2Proof

open Laws.EncodeInRow

variable {w : Word} {i : Instr} {fam : Nat}

/-- Clearing the low nibble of a word of family `fam`. -/
theorem wordXYN_clear_n (hfam : (fieldsOf w).fam.toNat = fam) :
    wordXYN (BitVec.ofNat 4 fam) (fieldsOf w).x (fieldsOf w).y 0 = w &&& ~~~0x000F := by
  have h := and_wordXYN (BitVec.ofNat 4 fam) (fieldsOf w).x (fieldsOf w).y (fieldsOf w).n 0xF 0xF 0xF 0
  rw [wordXYN_of_fam hfam, nib_and_F, nib_and_F, nib_and_F, nib_and_0] at h
  exact h.symm

/-- Clearing the `y` nibble of a word of family `fam`. -/
theorem wordXYN_clear_y (hfam : (fieldsOf w).fam.toNat = fam) :
    wordXYN (BitVec.ofNat 4 fam) (fieldsOf w).x 0 (fieldsOf w).n = w &&& ~~~0x00F0 := by
  have h := and_wordXYN (BitVec.ofNat 4 fam) (fieldsOf w).x (fieldsOf w).y (fieldsOf w).n 0xF 0xF 0 0xF
  rw [wordXYN_of_fam hfam, nib_and_F, nib_and_F, nib_and_F, nib_and_0] at h
  exact h.symm

/-- An instruction without ignored bits loses none. -/
theorem encode_eq_of_ignoredBits_zero (hi : ignoredBits i = 0) (hw : encode i = w) :
    encode i = w &&& ~~~(ignoredBits i) := by
  rw [hi, hw]
  exact BitVec.and_allOnes.symm

theorem encode_of_family0 (hfam : (fieldsOf w).fam.toNat = 0x0) (h : family0 (fieldsOf w) = some i) :
    encode i = w &&& ~~~(ignoredBits i) := by
  have hw := wordNNN_of_fam hfam
  unfold family0 at h
  split at h
  case h_3 => cases h
  case h_1 hsub | h_2 hsub =>
    cases h
    rw [eq_ofNat_of_toNat_eq hsub] at hw
    exact encode_eq_of_ignoredBits_zero rfl hw

/-- Only the two shifts lose a nibble. -/
theorem encode_of_family8 (hfam : (fieldsOf w).fam.toNat = 0x8) (h : family8 (fieldsOf w) = some i) :
    encode i = w &&& ~~~(ignoredBits i) := by
  have hw := wordXYN_of_fam hfam
  have hclear := wordXYN_clear_y hfam
  unfold family8 at h
  split at h
  case h_10 => cases h
  -- 8xy6 and 8xyE
  case h_7 hsub | h_9 hsub =>
    cases h
    rw [eq_ofNat_of_toNat_eq hsub] at hclear
    exact hclear
  case h_1 hsub | h_2 hsub | h_3 hsub | h_4 hsub | h_5 hsub | h_6 hsub | h_8 hsub =>
    cases h
    rw [eq_ofNat_of_toNat_eq hsub] at hw
    exact encode_eq_of_ignoredBits_zero rfl hw

theorem encode_of_familyE (hfam : (fieldsOf w).fam.toNat = 0xE) (h : familyE (fieldsOf w) = some i) :
    encode i = w &&& ~~~(ignoredBits i) := by
  have hw := wordXKK_of_fam hfam
  unfold familyE at h
  split at h
  case h_3 => cases h
  case h_1 hsub | h_2 hsub =>
    cases h
    rw [eq_ofNat_of_toNat_eq hsub] at hw
    exact encode_eq_of_ignoredBits_zero rfl hw

theorem encode_of_familyF (hfam : (fieldsOf w).fam.toNat = 0xF) (h : familyF (fieldsOf w) = some i) :
    encode i = w &&& ~~~(ignoredBits i) := by
  have hw := wordXKK_of_fam hfam
  unfold familyF at h
  split at h
  case h_10 => cases h
  case h_1 hsub | h_2 hsub | h_3 hsub | h_4 hsub | h_5 hsub | h_6 hsub | h_7 hsub | h_8 hsub | h_9 hsub =>
    cases h
    rw [eq_ofNat_of_toNat_eq hsub] at hw
    exact encode_eq_of_ignoredBits_zero rfl hw

/-- Outside the families with a sub-opcode only 5 and 9 lose a nibble, the low one, which they never look at. -/
theorem encode_of_selectInstr (h : selectInstr (fieldsOf w) = some i) : encode i = w &&& ~~~(ignoredBits i) := by
  unfold selectInstr at h
  split at h
  case h_1 hfam => exact encode_of_family0 hfam h
  case h_9 hfam => exact encode_of_family8 hfam h
  case h_15 hfam => exact encode_of_familyE hfam h
  case h_16 hfam => exact encode_of_familyF hfam h
  case h_17 => cases h
  -- families 5 and 9
  case h_6 hfam | h_10 hfam => cases h; exact wordXYN_clear_n hfam
  -- format NNN
  case h_2 hfam | h_3 hfam | h_11 hfam | h_12 hfam =>
    cases h; exact encode_eq_of_ignoredBits_zero rfl (wordNNN_of_fam hfam)
  -- format XKK
  case h_4 hfam | h_5 hfam | h_7 hfam | h_8 hfam | h_13 hfam =>
    cases h; exact encode_eq_of_ignoredBits_zero rfl (wordXKK_of_fam hfam)
  -- the draw
  case h_14 hfam => cases h; exact encode_eq_of_ignoredBits_zero rfl (wordXYN_of_fam hfam)

end Sys2Proof

namespace Sys2Proof

/-- Settles O4: decoding is dispatch on the fields, and the word is rebuilt from them family by family. -/
theorem decodeLosesOnlyIgnoredBits : Obligations.DecodeLosesOnlyIgnoredBits := fun w i h =>
  encode_of_selectInstr ((decode_eq_ok w i).1 h)

end Sys2Proof

/-! ### The rows of the opcode map (spec/30_encoding.md R100, R124) -/

namespace Sys2Proof

open Laws.EncodeInRow

/-- No row's mask looks at an ignored bit. -/
theorem not_ignoredBits_and_mask (i : Instr) : ~~~(ignoredBits i) &&& i.row.mask = i.row.mask := by
  have hnone (m : Word) : ~~~0x0000 &&& m = m := BitVec.allOnes_and
  cases i with
  | seReg | sneReg => exact (by decide : ~~~(0x000F : Word) &&& 0xF000 = 0xF000)
  | shr | shl => exact (by decide : ~~~(0x00F0 : Word) &&& 0xF00F = 0xF00F)
  | _ => exact hnone _

theorem encode_and_mask (i : Instr) : encode i &&& i.row.mask = i.row.bits := by
  cases i with
  | cls | ret => decide
  | jp | call | ldI | jpV0 => exact family_wordNNN _ _
  | seImm | sneImm | ldImm | addImm | rnd => exact family_wordXKK _ _ _
  | seReg | sneReg | drw => exact family_wordXYN _ _ _ _
  | ldReg | orReg | andReg | xorReg | addReg | sub | shr | subn | shl => exact sub_wordXYN _ _ _ _
  | skp | sknp | ldVxDt | ldVxK | ldDtVx | ldStVx | addI | ldF | ldB | ldMemVx | ldVxMem => exact sub_wordXKK _ _ _

/-- A decoded word carries the fixed bits of its instruction's row. -/
theorem and_mask_of_decode {w : Word} {i : Instr} (h : decode w = .ok i) : w &&& i.row.mask = i.row.bits := by
  have hbits := encode_and_mask i
  rw [decodeLosesOnlyIgnoredBits w i h, BitVec.and_assoc, not_ignoredBits_and_mask] at hbits
  exact hbits

/-- A mask that covers the family compares the family. -/
theorem fam_of_and_mask {w m b : Word} (h : w &&& m = b) (hm : (fieldsOf m).fam = 0xF) :
    (fieldsOf w).fam = (fieldsOf b).fam := by
  rw [← nib_and_F (fieldsOf w).fam, ← hm, ← h]
  exact (BitVec.extractLsb'_and ..).symm

/-- A mask that covers the low nibble compares the low nibble. -/
theorem n_of_and_mask {w m b : Word} (h : w &&& m = b) (hm : (fieldsOf m).n = 0xF) :
    (fieldsOf w).n = (fieldsOf b).n := by
  rw [← nib_and_F (fieldsOf w).n, ← hm, ← h]
  exact (BitVec.extractLsb'_and ..).symm

/-- A mask that covers the low byte compares the low byte. -/
theorem kk_of_and_mask {w m b : Word} (h : w &&& m = b) (hm : (fieldsOf m).kk = 0xFF) :
    (fieldsOf w).kk = (fieldsOf b).kk := by
  rw [← byte_and_FF (fieldsOf w).kk, ← hm, ← h]
  exact (BitVec.extractLsb'_and ..).symm

/-- A word with the fixed bits of a row is dispatched to that row. -/
theorem decode_of_and_mask (i : Instr) {w : Word} (h : w &&& i.row.mask = i.row.bits) :
    ∃ j, decode w = .ok j ∧ j.row = i.row := by
  cases i <;> simp only [Instr.row] at h
  case cls | ret =>
    obtain rfl : w = _ := BitVec.and_allOnes.symm.trans h
    exact ⟨_, by decide, rfl⟩
  case jp | call | ldI | jpV0 | seImm | sneImm | ldImm | addImm | rnd | seReg | sneReg | drw =>
    have hfam := fam_of_and_mask h (by decide)
    simp [decode_eq_ok, selectInstr, hfam, Instr.row]
  case ldReg | orReg | andReg | xorReg | addReg | sub | shr | subn | shl =>
    have hfam := fam_of_and_mask h (by decide)
    have hn := n_of_and_mask h (by decide)
    simp [decode_eq_ok, selectInstr, family8, hfam, hn, Instr.row]
  case skp | sknp =>
    have hfam := fam_of_and_mask h (by decide)
    have hkk := kk_of_and_mask h (by decide)
    simp [decode_eq_ok, selectInstr, familyE, hfam, hkk, Instr.row]
  case ldVxDt | ldVxK | ldDtVx | ldStVx | addI | ldF | ldB | ldMemVx | ldVxMem =>
    have hfam := fam_of_and_mask h (by decide)
    have hkk := kk_of_and_mask h (by decide)
    simp [decode_eq_ok, selectInstr, familyF, hfam, hkk, Instr.row]

/-- Settles O5: a row is that of one of the 34 sample instructions; its mask covers the fields the dispatch compares, and
no ignored bit. -/
theorem dispatchSelectsTheMatchingRow : Obligations.DispatchSelectsTheMatchingRow := by
  intro w r hr
  obtain ⟨i, -, rfl⟩ := List.mem_map.1 hr
  refine ⟨decode_of_and_mask i, ?_⟩
  rintro ⟨j, hdec, hrow⟩
  rw [← hrow]
  exact and_mask_of_decode hdec

end Sys2Proof

/-! ### The unrecognized words (spec/30_encoding.md R99) -/

namespace Sys2Proof

theorem family0_eq_none (f : Fields) : family0 f = none ↔ f.nnn.toNat ∉ [0x0E0, 0x0EE] := by
  unfold family0
  split <;> simp_all

theorem family8_eq_none (f : Fields) : family8 f = none ↔ f.n ∈ [0x8, 0x9, 0xA, 0xB, 0xC, 0xD, 0xF] := by
  have hn : ∀ n : Nibble, n ∈ [0x8, 0x9, 0xA, 0xB, 0xC, 0xD, 0xF] ↔ n.toNat ∉ [0, 1, 2, 3, 4, 5, 6, 7, 0xE] := by
    decide
  rw [hn]
  unfold family8
  split <;> simp_all

theorem familyE_eq_none (f : Fields) : familyE f = none ↔ f.kk ∉ [0x9E, 0xA1] := by
  simp only [List.mem_cons, List.not_mem_nil, BitVec.toNat_eq]
  unfold familyE
  split <;> simp_all

theorem familyF_eq_none (f : Fields) :
    familyF f = none ↔ f.kk ∉ [0x07, 0x0A, 0x15, 0x18, 0x1E, 0x29, 0x33, 0x55, 0x65] := by
  simp only [List.mem_cons, List.not_mem_nil, BitVec.toNat_eq]
  unfold familyF
  split <;> simp_all

/-- Dispatch selects nothing only in the four families with a sub-opcode. -/
theorem selectInstr_eq_none (f : Fields) :
    selectInstr f = none ↔
      (f.fam = 0x0 ∧ family0 f = none) ∨ (f.fam = 0x8 ∧ family8 f = none) ∨ (f.fam = 0xE ∧ familyE f = none) ∨
        (f.fam = 0xF ∧ familyF f = none) := by
  have hlt := f.fam.isLt
  simp only [BitVec.toNat_eq]
  unfold selectInstr
  split
  case h_17 => exfalso; simp only [imp_false] at *; omega
  all_goals simp_all

/-- Settles O6: decoding fails exactly where dispatch selects nothing; in family 0 the word is compared whole. -/
theorem unrecognizedWordsAreTheListed : Obligations.UnrecognizedWordsAreTheListed := by
  intro w
  have hfixed : (fieldsOf w).fam = 0x0 ∧ family0 (fieldsOf w) = none ↔
      (fieldsOf w).fam = 0x0 ∧ w ≠ 0x00E0 ∧ w ≠ 0x00EE := by
    simp only [family0_eq_none, ne_eq, BitVec.toNat_eq, BitVec.ofNat_eq_ofNat, toNat_fam_fieldsOf,
      toNat_nnn_fieldsOf, List.mem_cons, List.not_mem_nil, BitVec.toNat_ofNat, or_false]
    omega
  rw [← hfixed, ← family8_eq_none, ← familyE_eq_none, ← familyF_eq_none, ← selectInstr_eq_none, decode_eq_error]
  exact and_iff_left rfl

end Sys2Proof

/-! ### What each instruction answers (spec/41 to 45): its arm of the dispatch, the stack and key branches taken apart -/

namespace Sys2Proof.Machine

theorem exec_seReg (x y : Nibble) (s : State) : exec (.seReg x y) s = .next (s.skipIf (s.getV x == s.getV y)) := rfl

theorem exec_sneReg (x y : Nibble) (s : State) : exec (.sneReg x y) s = .next (s.skipIf (s.getV x != s.getV y)) := rfl

theorem exec_orReg (x y : Nibble) (s : State) :
    exec (.orReg x y) s = .next (s.setV x (s.getV x ||| s.getV y)).advance := rfl

theorem exec_andReg (x y : Nibble) (s : State) :
    exec (.andReg x y) s = .next (s.setV x (s.getV x &&& s.getV y)).advance := rfl

theorem exec_xorReg (x y : Nibble) (s : State) :
    exec (.xorReg x y) s = .next (s.setV x (s.getV x ^^^ s.getV y)).advance := rfl

theorem exec_addReg (x y : Nibble) (s : State) :
    exec (.addReg x y) s =
      .next ((s.setV vf (flagByte (carryOut (s.getV x) (s.getV y)))).setV x (s.getV x + s.getV y)).advance := rfl

theorem exec_rnd (x : Nibble) (kk : Byte) (s : State) :
    exec (.rnd x kk) s = .next ((s.setV x (s.rnd &&& kk)).drawNext).advance := rfl

theorem exec_ldI (nnn : Addr12) (s : State) : exec (.ldI nnn) s = .next (s.setI (zext16 nnn)).advance := rfl

theorem exec_addI (x : Nibble) (s : State) : exec (.addI x) s = .next (s.setI (s.i + zextByte (s.getV x))).advance := rfl

theorem exec_ldF (x : Nibble) (s : State) : exec (.ldF x) s = .next (s.setI (glyphAddr s.font (s.getV x))).advance := rfl

theorem exec_ldB (x : Nibble) (s : State) :
    exec (.ldB x) s = .next (s.writeBytes (s.indexAddr 0) (digits (s.getV x))).advance := rfl

theorem exec_ldMemVx (x : Nibble) (s : State) :
    exec (.ldMemVx x) s = .next (s.writeBytes (s.indexAddr 0) (s.regBlock x)).advance := rfl

theorem exec_ldVxMem (x : Nibble) (s : State) :
    exec (.ldVxMem x) s = .next (s.setRegs 0 (s.readBytes (s.indexAddr 0) (x.toNat + 1))).advance := rfl

theorem exec_skp (x : Nibble) (s : State) : exec (.skp x) s = .next (s.skipIf (s.keyDown (keyOf (s.getV x)))) := rfl

theorem exec_sknp (x : Nibble) (s : State) : exec (.sknp x) s = .next (s.skipIf (!s.keyDown (keyOf (s.getV x)))) := rfl

theorem exec_ldStVx (x : Nibble) (s : State) : exec (.ldStVx x) s = .next (s.setSt (s.getV x)).advance := rfl

/-- A return on the empty stack (R252). -/
theorem exec_ret_empty (s : State) (h : s.sp.val = 0) : exec .ret s = .next (s.enterHalt .stackUnderflow) := by
  have hpop : s.pop = none := s.pop_eq_none.2 h
  simp only [exec, execRet, hpop]

/-- A return on a stack that is not empty (R140). -/
theorem exec_ret_pop (s : State) (h : s.sp.val ≠ 0) :
    exec .ret s = .next (State.jumpTo { s with sp := ⟨s.sp.val - 1, by omega⟩ } (s.stack[s.sp.val - 1]'(by omega))) := by
  have hpos : 0 < s.sp.val := by omega
  simp only [exec, execRet, State.pop, hpos, dif_pos]

/-- A call on the full stack (R251). -/
theorem exec_call_full (nnn : Addr12) (s : State) (h : s.sp.val = 16) :
    exec (.call nnn) s = .next (s.enterHalt .stackOverflow) := by
  have hpush : s.push (s.pc + 2) = none := (s.push_eq_none _).2 h
  simp only [exec, execCall, hpush]

/-- A call on a stack that is not full (R142). -/
theorem exec_call_push (nnn : Addr12) (s : State) (h : s.sp.val < 16) :
    exec (.call nnn) s =
      .next (State.jumpTo { s with stack := s.stack.set s.sp.val (s.pc + 2) h, sp := ⟨s.sp.val + 1, by omega⟩ }
        (zext16 nnn)) := by
  simp only [exec, execCall, State.push, h, dif_pos]

/-- Fx0A while no key is pressed (R233). -/
theorem exec_ldVxK_wait (x : Nibble) (s : State) (h : s.pressedKeys = []) : exec (.ldVxK x) s = .next s := by
  simp only [exec, execLdVxK, h, keywaitPick]

/-- Fx0A when a key is picked (R233). -/
theorem exec_ldVxK_pick (x : Nibble) (s : State) {k : Nibble} (h : keywaitPick s.pressedKeys = some k) :
    exec (.ldVxK x) s = .next (s.setV x (keyByte k)).advance := by
  simp only [exec, execLdVxK, h]

/-- With a key pressed Fx0A picks one. -/
theorem exists_keywaitPick {s : State} (h : s.pressedKeys ≠ []) : ∃ k, keywaitPick s.pressedKeys = some k :=
  Option.ne_none_iff_exists'.1 (mt (keywaitPick_eq_none _).1 h)

/-! #### The three instructions that branch -/

theorem ret_cases {s t : State} (h : exec .ret s = .next t) :
    (s.sp.val = 0 ∧ t = s.enterHalt .stackUnderflow) ∨
      ∃ _ : s.sp.val ≠ 0,
        t = State.jumpTo { s with sp := ⟨s.sp.val - 1, by omega⟩ } (s.stack[s.sp.val - 1]'(by omega)) := by
  by_cases hsp : s.sp.val = 0
  · rw [exec_ret_empty s hsp] at h
    cases h
    exact .inl ⟨hsp, rfl⟩
  · rw [exec_ret_pop s hsp] at h
    cases h
    exact .inr ⟨hsp, rfl⟩

theorem call_cases {nnn : Addr12} {s t : State} (h : exec (.call nnn) s = .next t) :
    (s.sp.val = 16 ∧ t = s.enterHalt .stackOverflow) ∨
      ∃ hlt : s.sp.val < 16,
        t = State.jumpTo { s with stack := s.stack.set s.sp.val (s.pc + 2) hlt, sp := ⟨s.sp.val + 1, by omega⟩ }
          (zext16 nnn) := by
  rcases Nat.lt_or_ge s.sp.val 16 with hlt | hge
  · rw [exec_call_push nnn s hlt] at h
    cases h
    exact .inr ⟨hlt, rfl⟩
  · have hfull : s.sp.val = 16 := by omega
    rw [exec_call_full nnn s hfull] at h
    cases h
    exact .inl ⟨hfull, rfl⟩

theorem ldVxK_cases {x : Nibble} {s t : State} (h : exec (.ldVxK x) s = .next t) :
    (s.pressedKeys = [] ∧ t = s) ∨ (s.pressedKeys ≠ [] ∧ ∃ k, t = (s.setV x (keyByte k)).advance) := by
  by_cases hk : s.pressedKeys = []
  · rw [exec_ldVxK_wait x s hk] at h
    cases h
    exact .inl ⟨hk, rfl⟩
  · obtain ⟨k, hpick⟩ := exists_keywaitPick hk
    rw [exec_ldVxK_pick x s hpick] at h
    cases h
    exact .inr ⟨hk, k, rfl⟩

/-! #### Frames -/

theorem Framed.mono {regs regs' : List Nibble} {parts parts' : List Part} {s t : State} (h : Framed regs parts s t)
    (hr : regs ⊆ regs') (hp : parts ⊆ parts') : Framed regs' parts' s t :=
  ⟨fun r hn => h.1 r (mt (@hr r) hn), fun p hn => h.2 p (mt (@hp p) hn)⟩

/-- One update after another may change what either may change. -/
theorem Framed.append {regs regs' : List Nibble} {parts parts' : List Part} {s t u : State}
    (h : Framed regs parts s t) (k : Framed regs' parts' t u) : Framed (regs ++ regs') (parts ++ parts') s u :=
  (h.mono (List.subset_append_left _ _) (List.subset_append_left _ _)).trans
    (k.mono (List.subset_append_right _ _) (List.subset_append_right _ _))

theorem Framed.enterHalt (s : State) (e : Fatal) : Framed [] [.halt] s (s.enterHalt e) :=
  ⟨fun _ _ => rfl, fun p hp => by cases p <;> simp_all [Part.same]⟩

/-- Writing the stack and its depth changes that part alone. -/
theorem Framed.setStack (s : State) (stk : Vector Word 16) (d : Fin 17) :
    Framed [] [.stack] s { s with stack := stk, sp := d } :=
  ⟨fun _ _ => rfl, fun p hp => by cases p <;> simp_all [Part.same, State.readByte]⟩

theorem Framed.setI (s : State) (w : Word) : Framed [] [.index] s (s.setI w) :=
  ⟨fun _ _ => rfl, fun p hp => by cases p <;> simp_all [Part.same]⟩

theorem Framed.setSt (s : State) (b : Byte) : Framed [] [.sound] s (s.setSt b) :=
  ⟨fun _ _ => rfl, fun p hp => by cases p <;> simp_all [Part.same]⟩

theorem Framed.drawNext (s : State) : Framed [] [.random] s s.drawNext :=
  ⟨fun _ _ => rfl, fun p hp => by cases p <;> simp_all [Part.same]⟩

theorem Framed.writeBytes (s : State) (a : Nat) (bytes : List Byte) : Framed [] [.memory] s (s.writeBytes a bytes) :=
  ⟨fun r _ => s.getV_writeBytes a bytes r, fun p hp => by cases p <;> simp_all [Part.same]⟩

/-- A flag written to `VF`, then a result to `Vx`. -/
theorem Framed.setV_setV (s : State) (x y : Nibble) (b c : Byte) : Framed [x, y] [] s ((s.setV x b).setV y c) :=
  (Framed.setV s x b).append (Framed.setV _ y c)

/-- Loading registers from `V0` on leaves the others, and every other part. -/
theorem Framed.setRegs (s : State) (bytes : List Byte) (h : bytes.length ≤ 16) :
    Framed ((List.range bytes.length).map (BitVec.ofNat 4)) [] s (s.setRegs 0 bytes) := by
  refine ⟨fun r hr => ?_, fun p _ => ?_⟩
  · rw [State.getV_setRegs s 0 bytes (by omega) r, dif_neg]
    rintro ⟨-, hlt⟩
    exact hr (List.mem_map.2 ⟨r.toNat, List.mem_range.2 (by omega), by simp⟩)
  · rw [State.setRegs_eq]
    cases p <;> simp [Part.same, State.readByte]

/-- Every instruction keeps its frame, by its kind: what it writes besides `PC` is one of the writes above. -/
theorem exec_framed (i : Instr) {s t : State} (h : exec i s = .next t) :
    Framed (writtenRegs i) (writtenParts i) s t := by
  cases i with
  | jp | jpV0 => cases h; exact Framed.jumpTo s _
  | seImm | sneImm | seReg | sneReg | skp | sknp => cases h; exact Framed.skipIf s _
  | ldImm | addImm | ldReg | orReg | andReg | xorReg | ldVxDt => cases h; exact (Framed.setV s _ _).advance
  | addReg | sub | shr | subn | shl => cases h; exact (Framed.setV_setV s _ _ _ _).advance
  | ldI | addI | ldF => cases h; exact (Framed.setI s _).advance
  | ldDtVx => cases h; exact (Framed.setDt s _).advance
  | ldStVx => cases h; exact (Framed.setSt s _).advance
  | ldB | ldMemVx => cases h; exact (Framed.writeBytes s _ _).advance
  | rnd => cases h; exact ((Framed.setV s _ _).append (Framed.drawNext _)).advance
  | cls => cases h; exact (Framed.paint s _).advance
  | drw => cases h; exact ((Framed.paint s _).append (Framed.setV _ vf _)).advance
  | ldVxMem x =>
    cases h
    have hx := x.isLt
    have hload := Framed.setRegs s (s.readBytes (s.indexAddr 0) (x.toNat + 1)) (by simp; omega)
    rw [State.length_readBytes] at hload
    exact hload.advance
  | ret =>
    obtain ⟨-, rfl⟩ | ⟨_, rfl⟩ := ret_cases h
    · exact (Framed.enterHalt s _).mono (by simp) (by simp [writtenParts])
    · exact ((Framed.setStack s s.stack _).append (Framed.jumpTo _ _)).mono (by simp) (by simp [writtenParts])
  | call =>
    obtain ⟨-, rfl⟩ | ⟨_, rfl⟩ := call_cases h
    · exact (Framed.enterHalt s _).mono (by simp) (by simp [writtenParts])
    · exact ((Framed.setStack s _ _).append (Framed.jumpTo _ _)).mono (by simp) (by simp [writtenParts])
  | ldVxK =>
    obtain ⟨-, rfl⟩ | ⟨-, k, rfl⟩ := ldVxK_cases h
    · exact Framed.refl _ _ _
    · exact (Framed.setV s _ _).advance

/-- An instruction keeps `HALT`, or it is one of the two fatal conditions, which write nothing else (R254). -/
theorem exec_halt_cases (i : Instr) {s t : State} (h : exec i s = .next t) :
    t.halt = s.halt ∨ (i = .ret ∧ s.sp.val = 0 ∧ t = s.enterHalt .stackUnderflow) ∨
      ∃ nnn, i = .call nnn ∧ s.sp.val = 16 ∧ t = s.enterHalt .stackOverflow := by
  cases i with
  | ret =>
    obtain ⟨hsp, rfl⟩ | ⟨_, rfl⟩ := ret_cases h
    · exact .inr (.inl ⟨rfl, hsp, rfl⟩)
    · exact .inl rfl
  | call nnn =>
    obtain ⟨hsp, rfl⟩ | ⟨_, rfl⟩ := call_cases h
    · exact .inr (.inr ⟨nnn, rfl, hsp, rfl⟩)
    · exact .inl rfl
  | _ => exact .inl ((exec_framed _ h).2 .halt (by simp [writtenParts]))

theorem exec_reports (i : Instr) {s t : State} (h : exec i s = .next t) : t.reports = s.reports :=
  (exec_framed i h).2 .reports (by cases i <;> simp [writtenParts])

theorem exec_font (i : Instr) {s t : State} (h : exec i s = .next t) : t.font = s.font :=
  (exec_framed i h).2 .font (by cases i <;> simp [writtenParts])

end Sys2Proof.Machine

namespace Sys2Proof

open Machine

/-- Settles O17: the frames of the updates, instruction by instruction. -/
theorem writeSetsAreComplete : Obligations.WriteSetsAreComplete := fun i _ _ h => exec_framed i h

/-- Settles O14: only the two fatal conditions write `HALT`. -/
theorem onlyCallAndReturnHalt : Obligations.OnlyCallAndReturnHalt := by
  intro i s t h hne
  obtain hsame | ⟨hi, hsp, rfl⟩ | ⟨nnn, hi, hsp, rfl⟩ := exec_halt_cases i h
  · exact absurd hsame hne
  · exact .inl ⟨hi, hsp, rfl⟩
  · exact .inr ⟨nnn, hi, hsp, rfl⟩

end Sys2Proof

namespace Sys2Proof.Machine

theorem exists_exec_next (i : Instr) (s : State) : ∃ t, exec i s = .next t := by
  cases i with
  | ret =>
    by_cases hsp : s.sp.val = 0
    · exact ⟨_, exec_ret_empty s hsp⟩
    · exact ⟨_, exec_ret_pop s hsp⟩
  | call nnn =>
    by_cases hsp : s.sp.val < 16
    · exact ⟨_, exec_call_push nnn s hsp⟩
    · exact ⟨_, exec_call_full nnn s (by omega)⟩
  | ldVxK x =>
    by_cases hk : s.pressedKeys = []
    · exact ⟨_, exec_ldVxK_wait x s hk⟩
    · obtain ⟨_, hpick⟩ := exists_keywaitPick hk
      exact ⟨_, exec_ldVxK_pick x s hpick⟩
  | _ => exact ⟨_, rfl⟩

theorem runWord_of_error {w : Word} {e : DecodeError} (h : decode w = .error e) (s : State) :
    runWord w s = .next (s.reportUnrecognized w) := by
  simp only [runWord, h]

theorem exists_runWord_next (w : Word) (s : State) : ∃ t, runWord w s = .next t := by
  cases h : decode w with
  | ok i =>
    rw [runWord_of_decode h s]
    exact exists_exec_next i s
  | error e => exact ⟨_, runWord_of_error h s⟩

theorem zext16_eq_ofNat (nnn : Addr12) : zext16 nnn = BitVec.ofNat 16 nnn.toNat :=
  (BitVec.ofNat_toNat 16 nnn).symm

@[simp] theorem State.setRegs_pc (s : State) (k : Nat) (bytes : List Byte) : (s.setRegs k bytes).pc = s.pc := by
  rw [State.setRegs_eq]

end Sys2Proof.Machine

namespace Sys2Proof

open Machine

/-- Settles O15: the three instructions that branch answer on each side, and so does the report of an unrecognized word. -/
theorem everyInstructionAnswersANextState : Obligations.EveryInstructionAnswersANextState := by
  refine ⟨exists_exec_next, fun s hs => ?_⟩
  obtain ⟨u, hu⟩ := exists_runWord_next s.fetchWord s
  exact ⟨_, step_running s u hs hu⟩

/-- Settles O16: the targets and distances of R125's table are numbers, those of the model 16-bit sums; the three
instructions that branch are taken apart, and the rest advance. -/
theorem programCounterRule : Obligations.ProgramCounterRule := by
  intro i s t h
  cases i with
  | jp nnn => cases h; exact zext16_eq_ofNat nnn
  | jpV0 nnn =>
    cases h
    exact eq_ofNat_of_toNat_eq (toNat_zext16_add_zextByte nnn (s.getV 0))
  | seImm | sneImm | seReg | sneReg | skp | sknp => cases h; simp [pcAfter]
  | ret =>
    obtain ⟨hsp, rfl⟩ | ⟨hsp, rfl⟩ := ret_cases h
    · simp [pcAfter, hsp]
    · simp [pcAfter, hsp]
  | call nnn =>
    obtain ⟨hsp, rfl⟩ | ⟨hsp, rfl⟩ := call_cases h
    · simp [pcAfter, hsp]
    · simp [pcAfter, hsp.ne, zext16_eq_ofNat]
  | ldVxK =>
    obtain ⟨hk, rfl⟩ | ⟨hk, k, rfl⟩ := ldVxK_cases h
    · simp [pcAfter, hk]
    · simp [pcAfter, hk]
  | ldB | ldMemVx | ldVxMem => cases h; simp [pcAfter]
  | _ => cases h; rfl

end Sys2Proof

/-! ### The invariant (R254, R258; the canonical memory is log entry 9) -/

namespace Sys2Proof.Machine

@[simp] theorem State.setRegs_mem (s : State) (k : Nat) (bytes : List Byte) : (s.setRegs k bytes).mem = s.mem := by
  rw [State.setRegs_eq]

/-- Memory is as it was, or a run of bytes has been stored. -/
theorem exec_mem_cases (i : Instr) {s t : State} (h : exec i s = .next t) :
    t.mem = s.mem ∨ ∃ a bytes, t.mem = (s.writeBytes a bytes).mem := by
  cases i with
  | ldB | ldMemVx => cases h; exact .inr ⟨_, _, rfl⟩
  | ldVxMem => cases h; exact .inl (State.setRegs_mem ..)
  | ret => obtain ⟨-, rfl⟩ | ⟨_, rfl⟩ := ret_cases h <;> exact .inl rfl
  | call => obtain ⟨-, rfl⟩ | ⟨_, rfl⟩ := call_cases h <;> exact .inl rfl
  | ldVxK => obtain ⟨-, rfl⟩ | ⟨-, _, rfl⟩ := ldVxK_cases h <;> exact .inl rfl
  | _ => cases h; exact .inl rfl

theorem exec_keeps_wf (i : Instr) {s t : State} (h : exec i s = .next t) (hwf : Memory.wf s.font s.mem) :
    Memory.wf t.font t.mem := by
  rw [exec_font i h]
  obtain hmem | ⟨a, bytes, hmem⟩ := exec_mem_cases i h
  · exact hmem ▸ hwf
  · have hstored := s.wf_writeBytes a bytes hwf
    rwa [State.writeBytes_font, ← hmem] at hstored

/-- The halt latch of a running machine is precise. -/
theorem State.haltPrecise_of_running {s : State} (h : s.halt = none) : s.haltPrecise := by
  simp [State.haltPrecise, h]

theorem exec_keeps_inv (i : Instr) {s t : State} (hs : s.halt = none) (h : exec i s = .next t) (hinv : s.Inv) :
    t.Inv where
  memory := exec_keeps_wf i h hinv.memory
  reports := by simpa only [State.reportsGenuine, exec_reports i h] using hinv.reports
  halt := by
    obtain hsame | ⟨-, hsp, rfl⟩ | ⟨_, -, hsp, rfl⟩ := exec_halt_cases i h
    · exact State.haltPrecise_of_running (hsame.trans hs)
    · simpa [State.haltPrecise] using hsp
    · simpa [State.haltPrecise] using hsp

/-- A report of an unrecognized word is genuine. -/
theorem reportUnrecognized_keeps_inv {s : State} {w : Word} (hw : decode w = .error (.unrecognized w)) (hinv : s.Inv) :
    (s.reportUnrecognized w).Inv where
  memory := hinv.memory
  halt := hinv.halt
  reports := List.forall_mem_cons.2 ⟨hw, hinv.reports⟩

theorem endCycle_keeps_inv {s : State} (hinv : s.Inv) : (endCycle s).Inv := by
  rw [endCycle_eq]
  exact ⟨hinv.memory, hinv.halt, hinv.reports⟩

end Sys2Proof.Machine

namespace Sys2Proof

open Machine

/-- Settles O49: the instruction or the report keeps the invariant, and the end of the cycle writes only the timers. -/
theorem stepKeepsTheInvariant : Obligations.StepKeepsTheInvariant := by
  intro s t hinv hstep
  obtain ⟨hs, u, hrun, rfl⟩ := step_next s t hstep
  apply endCycle_keeps_inv
  obtain ⟨i, -, hexec⟩ | ⟨hdec, rfl⟩ := runWord_next _ s u hrun
  · exact exec_keeps_inv i hs hexec hinv
  · exact reportUnrecognized_keeps_inv hdec hinv

/-- Settles O50: nothing is listed in memory, and the machine is neither halted nor has it reported anything. -/
theorem resetSatisfiesTheInvariant : Obligations.ResetSatisfiesTheInvariant where
  memory := State.reset_wf
  halt := State.haltPrecise_of_running rfl
  reports := by simp [State.reportsGenuine, State.reset]

end Sys2Proof

/-! ### The cycle (spec/40_cycle_and_dispatch.md R120 to R130) -/

namespace Sys2Proof.Machine

theorem step_halted {s : State} {e : Fatal} (h : s.halt = some e) : step s = .fault (.halted e) := by
  simp only [step, cycle, h]

theorem cycleError_of_step_next {s t : State} (h : step s = .next t) : cycleError s = t.halt := by
  have hcycle : cycle s = .next t := h
  simp only [cycleError, hcycle]

theorem cycleError_of_step_halted {s : State} {e : Fatal} (h : step s = .fault (.halted e)) : cycleError s = some e := by
  have hcycle : cycle s = .fault (.halted e) := h
  simp only [cycleError, hcycle]

/-- The random input is no part of the halted check. -/
theorem applyMove_cycle_halted {s : State} {e : Fatal} (h : s.halt = some e) (r : Byte) : applyMove (.cycle r) s = s := by
  have hcycle : cycleWith r s = .fault (.halted e) := step_halted (s := { s with rnd := r }) h
  simp only [applyMove, hcycle]

theorem endCycle_halted {s : State} {e : Fatal} (h : s.halt = some e) : endCycle s = s := hostTimerTick_halted s e h

theorem endCycle_eq_ite (s : State) : endCycle s = if s.halt = none then s.tick else s := by
  obtain ⟨hs, hend⟩ | ⟨hs, hend⟩ := endCycle_cases s
  · rw [hend, if_pos hs]
  · rw [hend, if_neg hs]

/-- The whole step of a fatal condition: nothing but `HALT` is written, and no tick follows (R128). -/
theorem step_of_exec_enterHalt {s : State} {i : Instr} {e : Fatal} (hs : s.halt = none)
    (hdec : decode s.fetchWord = .ok i) (hexec : exec i s = .next (s.enterHalt e)) : step s = .next (s.enterHalt e) := by
  have hrun := (runWord_of_decode hdec s).trans hexec
  rw [step_running s _ hs hrun, endCycle_halted (s.enterHalt_halt e)]

/-- Reporting a word writes the report log and `PC` alone. -/
theorem Framed.reportUnrecognized (s : State) (w : Word) : Framed [] [.reports] s (s.reportUnrecognized w) :=
  ⟨fun _ _ => rfl, fun p hp => by cases p <;> simp_all [Part.same]⟩

end Sys2Proof.Machine

namespace Sys2Proof

open Machine

/-- Settles O9: the instruction answers a next state, and the end of the cycle looks at its `HALT`. -/
theorem stepRunsTheDecodedInstruction : Obligations.StepRunsTheDecodedInstruction := by
  intro s i hs hdec
  obtain ⟨u, hexec⟩ := exists_exec_next i s
  rw [hexec, step_running s u hs ((runWord_of_decode hdec s).trans hexec), endCycle_eq_ite]
  rfl

/-- Settles O10: the halted check comes before everything else. -/
theorem haltedMachineStaysAsItIs : Obligations.HaltedMachineStaysAsItIs := fun s e h =>
  ⟨step_halted h, cycleError_of_step_halted (step_halted h), applyMove_cycle_halted h, hostTimerTick_halted s e h⟩

/-- Settles O11: the report, then the tick of a machine that is still running. -/
theorem unrecognizedWordIsReportedAndSkipped : Obligations.UnrecognizedWordIsReportedAndSkipped := by
  intro s hs hdec
  have hstep := step_running s _ hs (runWord_of_error hdec s)
  rw [endCycle_running (s.reportUnrecognized _) hs] at hstep
  exact ⟨_, hstep, rfl, State.toNat_pc_advance s, State.toNat_tick_dt _, State.toNat_tick_st _,
    (Framed.reportUnrecognized s _).append (Framed.tick _), (cycleError_of_step_next hstep).trans hs⟩

/-- Settles O12: the tick reads the timers that the instruction has left. -/
theorem tickFollowsEveryInstruction : Obligations.TickFollowsEveryInstruction := by
  intro s hs
  obtain ⟨u, hrun⟩ := exists_runWord_next s.fetchWord s
  refine ⟨u, hrun, fun hu => ?_⟩
  have hstep := step_running s u hs hrun
  rw [endCycle_running u hu] at hstep
  have hexec {i} (hdec : decode s.fetchWord = .ok i) : exec i s = .next u := (runWord_of_decode hdec s).symm.trans hrun
  refine ⟨_, hstep, u.toNat_tick_dt, u.toNat_tick_st, rfl, Framed.tick u, fun x hdec => ?_, fun x hdec => ?_,
    fun x hdec => ?_⟩
  · cases (exec_ldVxDt x s).symm.trans (hexec hdec)
    exact s.getV_setV_same x s.dt
  · cases (exec_ldDtVx x s).symm.trans (hexec hdec)
    exact State.toNat_tick_dt _
  · cases (exec_ldStVx x s).symm.trans (hexec hdec)
    exact State.toNat_tick_st _

/-- Settles O13: both fatal conditions enter the halt, and a halted machine is not ticked. -/
theorem fatalCycleWritesOnlyHalt : Obligations.FatalCycleWritesOnlyHalt := by
  intro s hs
  refine ⟨fun hdec hsp => ?_, fun nnn hdec hsp => ?_⟩
  · have hstep := step_of_exec_enterHalt hs hdec (exec_ret_empty s hsp)
    exact ⟨hstep, cycleError_of_step_next hstep⟩
  · have hstep := step_of_exec_enterHalt hs hdec (exec_call_full nnn s hsp)
    exact ⟨hstep, cycleError_of_step_next hstep⟩

end Sys2Proof

/-! ### Host operations (R266 to R276, R290 to R294) -/

namespace Sys2Proof.Machine

theorem hostApply_create (s : State) : hostApply .create s = (.ok, hostCreate s) := rfl

theorem hostApply_reset (s : State) : hostApply .reset s = (.ok, hostReset s) := rfl

theorem hostApply_timerTick (s : State) : hostApply .timerTick s = (.ok, hostTimerTick s) := rfl

/-- A program is written from `0x200` on, or refused with the state as it was. -/
theorem loadProgram_cases (bytes : List Byte) (s : State) :
    (bytes.length ≤ 3584 ∧ hostApply (.loadProgram bytes) s = (.ok, s.writeBytes 0x200 bytes)) ∨
      hostApply (.loadProgram bytes) s = (.sizeExceeded, s) := by
  rcases Nat.lt_or_ge 3584 bytes.length with hexc | hfits
  · exact .inr (hostApply_loadProgram_exceeds bytes s hexc)
  · exact .inl ⟨hfits, hostApply_loadProgram_fits bytes s hfits⟩

theorem hostCreate_keeps_inv {s : State} (hinv : s.Inv) : (hostCreate s).Inv where
  memory := ⟨List.Pairwise.nil, by simp [hostCreate, State.reset]⟩
  halt := State.haltPrecise_of_running rfl
  reports := hinv.reports

theorem hostReset_keeps_inv {s : State} (hinv : s.Inv) : (hostReset s).Inv where
  memory := Memory.wf_repairReserved s.font s.mem hinv.memory
  halt := State.haltPrecise_of_running rfl
  reports := hinv.reports

theorem writeBytes_keeps_inv {s : State} (hinv : s.Inv) (a : Nat) (bytes : List Byte) : (s.writeBytes a bytes).Inv where
  memory := s.wf_writeBytes a bytes hinv.memory
  halt := by simpa [State.haltPrecise] using hinv.halt
  reports := by simpa [State.reportsGenuine] using hinv.reports

theorem a12_of_lt {a : Nat} (h : a < 4096) : a12 a = a := Nat.mod_eq_of_lt h

/-- `Create` clears the registers, latches, stack, timers and screen, whatever the fields outside the block hold. -/
theorem zeroed_hostCreate (s : State) : Zeroed (hostCreate s) := by
  refine ⟨fun r => ?_, rfl, rfl, rfl, fun k hk => ?_, Framebuffer.pixel_clear, rfl, rfl, fun k => ?_, rfl, rfl⟩
  · exact Vector.getElem_replicate _
  · exact Vector.getElem_replicate _
  · exact Vector.getElem_replicate _

/-- Memory that reads as the reset contents below `limit` has its font loaded, which lies below `0x200` whatever its
base. -/
theorem fontLoaded_of_readByte {t : State} {limit : Nat} (hlimit : 0x200 ≤ limit ∧ limit ≤ 4096)
    (h : ∀ a, a < limit → t.readByte a = resetByte t.font a) : FontLoaded limit t := by
  have hbase := t.font.base.isLt
  refine ⟨fun j hj => ?_, fun a ha hout => ?_⟩
  · rw [h _ (by omega), resetByte_font _ j hj]
  · rw [h a ha, resetByte_other _ a hout]

end Sys2Proof.Machine

namespace Sys2Proof

open Machine

/-- Settles O51: `Create` and `Reset` leave a canonical memory, a load is a run of stores, and the rest write nothing that
the invariant speaks of. -/
theorem hostOperationsKeepTheInvariant : Obligations.HostOperationsKeepTheInvariant := by
  intro o s hinv
  cases o with
  | create => exact hostCreate_keeps_inv hinv
  | reset => exact hostReset_keeps_inv hinv
  | loadProgram bytes =>
    obtain ⟨-, h⟩ | h := loadProgram_cases bytes s
    · rw [h]; exact writeBytes_keeps_inv hinv 0x200 bytes
    · rw [h]; exact hinv
  | setKeys | consumeRedrawFlag => exact ⟨hinv.memory, hinv.halt, hinv.reports⟩
  | framebufferSnapshot => exact hinv
  | timerTick => exact endCycle_keeps_inv hinv

/-- Settles O57: an accepted load is one run of stores that ends below 4096, so no address of it is reduced. -/
theorem loadingWritesOnlyTheProgram : Obligations.LoadingWritesOnlyTheProgram := by
  intro bytes s t h
  obtain ⟨hfits, hload⟩ | hload := loadProgram_cases bytes s
  · cases hload.symm.trans h
    refine ⟨fun a ha hout => ?_, Framed.writeBytes s 0x200 bytes, s.writeBytes_pc 0x200 bytes⟩
    refine s.readByte_writeBytes_outside 0x200 a bytes (fun k hk => ?_)
    rw [a12_eq, a12_eq]
    omega
  · cases hload.symm.trans h

/-- Settles O59: `TimerTick` on a running machine is the end of a cycle. -/
theorem hostTickIsTheTick : Obligations.HostTickIsTheTick := by
  intro s hs
  rw [hostApply_timerTick, hostTimerTick_running s hs]
  exact ⟨_, rfl, s.toNat_tick_dt, s.toNat_tick_st, rfl, Framed.tick s⟩

/-- Settles O54: the reset state and the state after `Create` both list nothing in memory, so every byte reads as its reset
contents. -/
theorem createZeroesTheMachine : Obligations.CreateZeroesTheMachine := by
  refine ⟨⟨zeroed_hostCreate State.reset, ?_⟩, fun s => ⟨rfl, zeroed_hostCreate s, ?_⟩⟩
  all_goals
    refine fontLoaded_of_readByte (by decide) (fun a ha => ?_)
    rw [State.readByte_nil _ a rfl, a12_of_lt ha]

/-- Settles O55: all but memory is as after `Create`, and the repair unlists exactly the reserved area. -/
theorem resetKeepsTheProgramArea : Obligations.ResetKeepsTheProgramArea := by
  intro s
  refine ⟨rfl, zeroed_hostCreate s, fontLoaded_of_readByte (by decide) (fun a ha => ?_), fun a hlo hhi => ?_⟩
  · have haddr := a12_of_lt (show a < 4096 by omega)
    rw [hostApply_reset, readByte_hostReset, haddr, if_pos ha]
    rfl
  · have haddr := a12_of_lt hhi
    rw [hostApply_reset, readByte_hostReset, haddr, if_neg (by omega)]

/-- Settles O60: every other move leaves a halted machine's latch alone, most of them the whole machine. -/
theorem onlyCreateAndResetClearTheHalt : Obligations.OnlyCreateAndResetClearTheHalt := by
  intro m s e hs hne
  cases m with
  | cycle r => exact absurd ((congrArg State.halt (applyMove_cycle_halted hs r)).trans hs) hne
  | host o =>
    cases o with
    | create => exact .inl rfl
    | reset => exact .inr rfl
    | loadProgram bytes =>
      refine absurd ?_ hne
      obtain ⟨-, h⟩ | h := loadProgram_cases bytes s
      · simpa [applyMove, h] using hs
      · simpa [applyMove, h] using hs
    | setKeys | framebufferSnapshot | consumeRedrawFlag => exact absurd hs hne
    | timerTick => exact absurd ((congrArg State.halt (hostTimerTick_halted s e hs)).trans hs) hne

end Sys2Proof

/-! ### The stack and the register skips (spec/41_control_transfer.md) -/

namespace Sys2Proof

/-- Families 5 and 9 never look at the low nibble (R98). -/
theorem decode_seReg (x y n : Nibble) : decode (wordXYN 0x5 x y n) = .ok (.seReg x y) := by
  simp [decode_eq_ok, selectInstr]

theorem decode_sneReg (x y n : Nibble) : decode (wordXYN 0x9 x y n) = .ok (.sneReg x y) := by
  simp [decode_eq_ok, selectInstr]

/-- The shifts never look at the `y` nibble (D29). -/
theorem decode_shr (x y : Nibble) : decode (wordXYN 0x8 x y 0x6) = .ok (.shr x) := by
  simp [decode_eq_ok, selectInstr, family8]

theorem decode_shl (x y : Nibble) : decode (wordXYN 0x8 x y 0xE) = .ok (.shl x) := by
  simp [decode_eq_ok, selectInstr, family8]

end Sys2Proof

namespace Sys2Proof

open Machine

/-- Settles O19: a push writes one entry and the depth, and a jump writes `PC` alone. -/
theorem callPushesTheReturnAddress : Obligations.CallPushesTheReturnAddress := by
  intro nnn s hsp
  refine ⟨_, exec_call_push nnn s hsp, toNat_zext16 nnn, rfl, fun k hk => ?_,
    (Framed.setStack s _ _).append (Framed.jumpTo _ _)⟩
  rw [State.jumpTo_stack, Vector.getElem_set]
  by_cases hkey : s.sp.val = k
  · rw [if_pos hkey, if_pos hkey.symm]
    exact s.toNat_pc_advance
  · rw [if_neg hkey, if_neg (Ne.symm hkey)]

/-- Settles O20: a pop writes the depth alone. -/
theorem returnPopsTheProgramCounter : Obligations.ReturnPopsTheProgramCounter := fun s hsp =>
  ⟨_, exec_ret_pop s hsp, rfl, rfl, rfl, (Framed.setStack s s.stack _).append (Framed.jumpTo _ _)⟩

/-- Settles O21: the return reads the entry that the call wrote, for the call's depth is one more. -/
theorem returnUndoesCall : Obligations.ReturnUndoesCall := by
  intro nnn s hsp
  obtain ⟨t, hcall, -, htsp, hentries, hframe⟩ := callPushesTheReturnAddress nnn s hsp
  obtain ⟨u, hret, hupc, husp, -, hframe'⟩ := returnPopsTheProgramCounter t (by omega)
  have hdepth : t.sp.val - 1 = s.sp.val := by omega
  refine ⟨t, u, hcall, hret, ?_, Fin.ext (husp.trans hdepth), hframe.trans hframe'⟩
  rw [hupc, hentries, if_pos hdepth]

/-- Settles O23: both skips are `skipIf`; a register compared with itself is equal. -/
theorem registerSkipsCompare : Obligations.RegisterSkipsCompare := by
  intro x y n s
  refine ⟨decode_seReg x y n, decode_sneReg x y n,
    ⟨_, exec_seReg x y s, ?_, Framed.skipIf s _, ?_⟩, ⟨_, exec_sneReg x y s, ?_, Framed.skipIf s _, ?_⟩⟩
  · simp only [State.toNat_pc_skipIf, beq_iff_eq, BitVec.toNat_inj]
  · rintro rfl
    simp only [State.toNat_pc_skipIf, beq_self_eq_true, if_true]
  · simp only [State.toNat_pc_skipIf, bne_iff_ne, ne_eq, BitVec.toNat_inj]
  · rintro rfl
    simp only [State.toNat_pc_skipIf, bne_self_eq_false, if_false, Bool.false_eq_true]

end Sys2Proof

/-! ### Logic, flags and shifts (spec/42_load_and_alu.md) -/

namespace Sys2Proof.Machine

/-- What an instruction does that writes a flag, then a result: the flag stays in `VF` unless the result overwrites it. -/
theorem State.setFlag_setV_advance_spec (s : State) (x : Nibble) (flag b : Byte) :
    let t := ((s.setV vf flag).setV x b).advance
    t.getV x = b ∧ (x ≠ vf → t.getV vf = flag) ∧ t.pc.toNat = (s.pc.toNat + 2) % 65536 ∧ Framed [vf, x] [] s t := by
  refine ⟨State.getV_setV_same _ x b, fun hx => ?_, State.toNat_pc_advance _, (Framed.setV_setV s vf x flag b).advance⟩
  rw [State.getV_advance, State.getV_setV_ne _ _ _ _ hx.symm, State.getV_setV_same]

theorem exec_sub (x y : Nibble) (s : State) :
    exec (.sub x y) s =
      let s1 := s.setV vf (flagByte (greater (s.getV x) (s.getV y)))
      .next (s1.setV x (s1.getV x - s1.getV y)).advance := rfl

theorem exec_subn (x y : Nibble) (s : State) :
    exec (.subn x y) s =
      let s1 := s.setV vf (flagByte (greater (s.getV y) (s.getV x)))
      .next (s1.setV x (s1.getV y - s1.getV x)).advance := rfl

theorem exec_shr (x : Nibble) (s : State) :
    exec (.shr x) s =
      let s1 := s.setV vf (bitOutRight (s.getV x))
      .next (s1.setV x (s1.getV x >>> 1)).advance := rfl

theorem exec_shl (x : Nibble) (s : State) :
    exec (.shl x) s =
      let s1 := s.setV vf (bitOutLeft (s.getV x))
      .next (s1.setV x (s1.getV x <<< 1)).advance := rfl

theorem toNat_flagByte_greater (a b : Byte) : (flagByte (greater a b)).toNat = greaterBit a b := by
  simp only [toNat_flagByte, greater_iff, greaterBit]

/-- A difference of bytes, with 256 lent to the minuend. -/
theorem toNat_sub_byte (a b : Byte) : (a - b).toNat = (a.toNat + 256 - b.toNat) % 256 := by
  have := b.isLt
  rw [BitVec.toNat_sub]
  omega

/-- A register read after the flag is written: register 15 is the flag. -/
theorem toNat_getV_setFlag (s : State) (r : Nibble) (a b : Byte) :
    ((s.setV vf (flagByte (greater a b))).getV r).toNat = if r = vf then greaterBit a b else (s.getV r).toNat := by
  rw [State.getV_setV, apply_ite BitVec.toNat, toNat_flagByte_greater]

theorem toNat_shr_byte (b : Byte) : (b >>> 1).toNat = b.toNat / 2 := by
  rw [BitVec.toNat_ushiftRight, Nat.shiftRight_eq_div_pow, Nat.pow_one]

theorem toNat_shl_byte (b : Byte) : (b <<< 1).toNat = b.toNat * 2 % 256 := by
  rw [BitVec.toNat_shiftLeft, Nat.shiftLeft_eq]

end Sys2Proof.Machine

namespace Sys2Proof

open Machine

/-- Settles O28: three register writes, each of a bitwise operation on the old bytes. -/
theorem logicIsBitwiseAndSetsNoFlag : Obligations.LogicIsBitwiseAndSetsNoFlag := by
  intro x y s
  refine ⟨⟨decodeOfEncodeIsTheInstruction (.orReg x y), _, exec_orReg x y s, fun k _ => ?_, (s.setV_advance_spec x _).2⟩,
    ⟨decodeOfEncodeIsTheInstruction (.andReg x y), _, exec_andReg x y s, fun k _ => ?_, (s.setV_advance_spec x _).2⟩,
    decodeOfEncodeIsTheInstruction (.xorReg x y), _, exec_xorReg x y s, fun k _ => ?_, (s.setV_advance_spec x _).2⟩
  · rw [State.getV_advance, State.getV_setV_same, BitVec.getLsbD_or]
  · rw [State.getV_advance, State.getV_setV_same, BitVec.getLsbD_and]
  · rw [State.getV_advance, State.getV_setV_same, BitVec.getLsbD_xor]

/-- Settles O29: the sum is formed from the old bytes, before the carry is written. -/
theorem addRegistersSetsTheCarry : Obligations.AddRegistersSetsTheCarry := by
  intro x y s
  obtain ⟨hsum, hflag, hrest⟩ :=
    s.setFlag_setV_advance_spec x (flagByte (carryOut (s.getV x) (s.getV y))) (s.getV x + s.getV y)
  refine ⟨_, exec_addReg x y s, ?_, fun hx => ?_, hrest⟩
  · rw [hsum, BitVec.toNat_add]
  · simp only [hflag hx, toNat_flagByte, carryOut_iff]

/-- Settles O30: the difference reads register 15 as the flag just written, every other register as it was. -/
theorem subtractionsSetTheGreaterFlag : Obligations.SubtractionsSetTheGreaterFlag := by
  intro x y s
  refine ⟨⟨_, exec_sub x y s, ?_⟩, _, exec_subn x y s, ?_⟩
  all_goals
    obtain ⟨hdiff, hflag, hrest⟩ := s.setFlag_setV_advance_spec x _ _
    refine ⟨?_, fun hx => ?_, hrest⟩
    · rw [hdiff, toNat_sub_byte, toNat_getV_setFlag, toNat_getV_setFlag]
    · rw [hflag hx, toNat_flagByte_greater]

/-- Settles O31: the shift reads the register after the flag is written, so with `x = 15` it shifts the flag itself. -/
theorem shiftsMoveOneBitOut : Obligations.ShiftsMoveOneBitOut := by
  intro x y s
  refine ⟨decode_shr x y, decode_shl x y, ⟨_, exec_shr x s, ?_⟩, _, exec_shl x s, ?_⟩
  · obtain ⟨hres, hflag, hrest⟩ := s.setFlag_setV_advance_spec x (bitOutRight (s.getV x)) _
    refine ⟨fun hx => ⟨?_, ?_⟩, ?_, hrest⟩
    · rw [hres, State.getV_setV_ne _ _ _ _ hx, toNat_shr_byte]
    · rw [hflag hx, toNat_bitOutRight]
    · rintro rfl
      apply BitVec.eq_of_toNat_eq
      rw [hres, State.getV_setV_same, toNat_shr_byte, toNat_bitOutRight]
      exact Nat.div_eq_of_lt (Nat.mod_lt _ (by decide))
  · obtain ⟨hres, hflag, hrest⟩ := s.setFlag_setV_advance_spec x (bitOutLeft (s.getV x)) _
    refine ⟨fun hx => ⟨?_, ?_⟩, ?_, hrest⟩
    · rw [hres, State.getV_setV_ne _ _ _ _ hx, toNat_shl_byte]
    · rw [hflag hx, toNat_bitOutLeft]
    · rintro rfl
      have := (s.getV vf).isLt
      rw [hres, State.getV_setV_same, toNat_shl_byte, toNat_bitOutLeft]
      split <;> omega

/-- Settles O32: the register write of a bitwise AND; advancing the generator touches no register. -/
theorem randomIsMaskedInput : Obligations.RandomIsMaskedInput := by
  intro x kk s
  refine ⟨_, exec_rnd x kk s, fun k _ => ?_, rfl, State.toNat_pc_advance _,
    ((Framed.setV s x _).append (Framed.drawNext _)).advance⟩
  rw [State.getV_advance, State.getV_drawNext, State.getV_setV_same, BitVec.getLsbD_and]

end Sys2Proof

/-! ### Memory as 4096 bytes (spec/20_memory.md) -/

namespace Sys2Proof.Machine

/-- A canonical memory lists exactly the addresses whose byte is not the reset byte. -/
theorem Memory.mem_iff_read {f : Font} {m : Memory} (h : Memory.wf f m) (c : Host.Cell) :
    c ∈ m ↔ c.1 < 4096 ∧ c.2 ≠ resetByte f c.1 ∧ Memory.read f m c.1 = c.2 := by
  obtain ⟨hsorted, hcells⟩ := h
  unfold Memory.read
  split
  next d hfind =>
    have hd := List.mem_of_find?_eq_some hfind
    have haddr : d.1 = c.1 := by simpa using List.find?_some hfind
    refine ⟨fun hc => ?_, fun ⟨_, _, hbyte⟩ => ?_⟩
    · obtain ⟨hlt, hne⟩ := hcells c hc
      have hsame : d = c := by
        by_contra hdc
        have hsymm : Std.Symm (fun c d : Host.Cell => c.1 ≠ d.1) := ⟨fun _ _ => Ne.symm⟩
        exact (hsorted.imp Nat.ne_of_lt).forall hd hc hdc haddr
      exact ⟨hlt, hne, congrArg Prod.snd hsame⟩
    · rwa [← Prod.ext haddr hbyte]
  next hfind =>
    have hnone := List.find?_eq_none.1 hfind
    refine ⟨fun hc => absurd (by simp) (hnone c hc), fun ⟨_, hne, hbyte⟩ => absurd hbyte.symm hne⟩

/-- A read reduces its address, so it does not tell addresses apart that are equal modulo 4096. -/
theorem State.readByte_congr (s : State) {a b : Nat} (h : a12 a = a12 b) : s.readByte a = s.readByte b := by
  rw [← s.readByte_a12 a, h, s.readByte_a12]

theorem a12_add_4096 (a : Nat) : a12 (a + 4096) = a12 a := Nat.add_mod_right a 4096

end Sys2Proof.Machine

namespace Sys2Proof

open Machine

/-- Settles O8: a canonical memory is a strictly rising list, so its cells, which its reads tell, determine it. -/
theorem canonicalMemoryIsUnique : Obligations.CanonicalMemoryIsUnique := by
  intro f m l hm hl hread
  have hirrefl : Std.Irrefl (fun c d : Host.Cell => c.1 < d.1) := ⟨fun c => Nat.lt_irrefl c.1⟩
  have hasymm : Std.Antisymm (fun c d : Host.Cell => c.1 < d.1) := ⟨fun c d h k => absurd h (Nat.lt_asymm k)⟩
  refine List.Pairwise.eq_of_mem_iff hm.1 hl.1 fun c => ?_
  rw [Memory.mem_iff_read hm, Memory.mem_iff_read hl]
  exact and_congr_right fun hlt => by rw [hread c.1 hlt]

/-- Settles O7: reads and writes see the reduced address alone. -/
theorem fetchIsBigEndianAndWraps : Obligations.FetchIsBigEndianAndWraps := by
  intro s a
  refine ⟨?_, s.readByte_congr (a12_add_4096 a), fun b => ?_⟩
  · rw [State.fetchWord, toNat_wordOfBytes, ← s.readByte_a12 s.pc.toNat, ← s.readByte_a12 (s.pc.toNat + 1), a12_eq,
      a12_eq]
  · rw [State.writeByte, State.writeByte, a12_add_4096]

end Sys2Proof

/-! ### Index register, stores and loads (spec/43_index_and_memory.md) -/

namespace Sys2Proof.Machine

/-- What an instruction that stores `bytes` at `I` does. -/
theorem State.writeBytes_advance_spec (s : State) (bytes : List Byte) :
    let t := (s.writeBytes (s.indexAddr 0) bytes).advance
    UntouchedOutside (s.indexAddr 0) bytes.length s t ∧ t.pc.toNat = (s.pc.toNat + 2) % 65536 ∧
      Framed [] [.memory] s t := by
  refine ⟨fun b hout => s.readByte_writeBytes_outside _ b bytes hout, ?_, (Framed.writeBytes s _ bytes).advance⟩
  rw [State.toNat_pc_advance, State.writeBytes_pc]

/-- What an instruction that writes `I` and goes to the next word does. -/
theorem State.setI_advance_spec (s : State) (w : Word) :
    (s.setI w).advance.pc.toNat = (s.pc.toNat + 2) % 65536 ∧ Framed [] [.index] s (s.setI w).advance :=
  ⟨s.toNat_pc_advance, (Framed.setI s w).advance⟩

/-- Each decimal digit fits the byte that holds it. -/
theorem toNat_digits (b : Byte) :
    (digits b)[0].toNat = b.toNat / 100 ∧ (digits b)[1].toNat = b.toNat / 10 % 10 ∧
      (digits b)[2].toNat = b.toNat % 10 := by
  have := b.isLt
  simp only [digits, List.getElem_cons_zero, List.getElem_cons_succ, BitVec.toNat_ofNat]
  omega

end Sys2Proof.Machine

namespace Sys2Proof

open Machine

/-- Settles O33: both write `I` alone, the second a 16-bit sum. -/
theorem indexLoadAndAdd : Obligations.IndexLoadAndAdd := by
  refine ⟨fun nnn s => ?_, fun x s => ?_⟩
  · exact ⟨decodeOfEncodeIsTheInstruction (.ldI nnn), _, exec_ldI nnn s, toNat_zext16 nnn, s.setI_advance_spec _⟩
  · refine ⟨decodeOfEncodeIsTheInstruction (.addI x), _, exec_addI x s, ?_, s.setI_advance_spec _⟩
    rw [State.advance_i, State.setI_i, BitVec.toNat_add, toNat_zextByte]

/-- Settles O34: `FONT_BASE + 5 * Vx` never reaches `2^16`, so no font base loses anything. -/
theorem glyphAddressIsLinear : Obligations.GlyphAddressIsLinear := fun x s =>
  ⟨_, exec_ldF x s, toNat_glyphAddr s.font (s.getV x), s.setI_advance_spec _⟩

/-- Settles O35: the run of the three digits reads back, and it is all that is stored. -/
theorem decimalDigitsAreStored : Obligations.DecimalDigitsAreStored := by
  intro x s
  obtain ⟨hhundreds, htens, hones⟩ := toNat_digits (s.getV x)
  have hread (k : Nat) (hk : k < 3) := s.readByte_writeBytes_inside (s.indexAddr 0) k (digits (s.getV x)) hk (by simp)
  refine ⟨_, exec_ldB x s, ?_, ?_, ?_, s.writeBytes_advance_spec (digits (s.getV x))⟩
  · exact (congrArg BitVec.toNat (hread 0 (by omega))).trans hhundreds
  · exact (congrArg BitVec.toNat (hread 1 (by omega))).trans htens
  · exact (congrArg BitVec.toNat (hread 2 (by omega))).trans hones

/-- Settles O36: the run of `V0 .. Vx` reads back, for 16 bytes do not lap the memory. -/
theorem registersAreStored : Obligations.RegistersAreStored := by
  intro x s
  have hspec := s.writeBytes_advance_spec (s.regBlock x)
  rw [State.length_regBlock] at hspec
  refine ⟨_, exec_ldMemVx x s, fun r hr => ?_, hspec⟩
  have hx := x.isLt
  rw [State.readByte_advance, s.readByte_writeBytes_inside _ r.toNat _ (by rw [State.length_regBlock]; omega)
    (by rw [State.length_regBlock]; omega), State.getElem_regBlock, BitVec.ofNat_toNat, BitVec.setWidth_eq]

/-- Settles O37: the block load takes register `r` from byte `r` of the run read at `I`. -/
theorem registersAreLoaded : Obligations.RegistersAreLoaded := by
  intro x s
  have hx := x.isLt
  refine ⟨_, exec_ldVxMem x s, fun r => ?_, ?_, exec_framed _ (exec_ldVxMem x s)⟩
  · rw [State.getV_advance, s.getV_setRegs 0 _ (by rw [State.length_readBytes]; omega) r]
    by_cases hr : r.toNat ≤ x.toNat
    · rw [if_pos hr, dif_pos (by rw [State.length_readBytes]; omega), State.getElem_readBytes, Nat.sub_zero]
    · rw [if_neg hr, dif_neg (by rw [State.length_readBytes]; omega)]
  · rw [State.toNat_pc_advance, State.setRegs_pc]

/-- Settles O38: the load finds `I` and the bytes as the store left them. -/
theorem loadUndoesStore : Obligations.LoadUndoesStore := by
  intro x s v
  obtain ⟨t, hstore, hbytes, -, -, hframe⟩ := registersAreStored x s
  obtain ⟨u, hload, hregs, -, -⟩ := registersAreLoaded x { t with v := v }
  have hindex : t.i = s.i := hframe.2 .index (by simp)
  refine ⟨t, u, hstore, hload, fun r hr => ?_, fun r hr => ?_⟩
  · rw [hregs r, if_pos hr, ← hbytes r hr]
    simp only [State.indexAddr, hindex]
    rfl
  · rw [hregs r, if_neg (by omega)]
    rfl

/-- Settles O39: `PC` holds 16 bits of the address, which are enough to agree with it modulo 4096. -/
theorem storedBytesAreFetched : Obligations.StoredBytesAreFetched := by
  intro x s k hk
  have hx := x.isLt
  obtain ⟨t, hstore, hbytes, -⟩ := registersAreStored x s
  refine ⟨t, hstore, ?_⟩
  have hfetch (j : Nat) (hj : k + j ≤ x.toNat) :
      t.readByte ((BitVec.ofNat 16 (s.indexAddr k)).toNat + j) = s.getV (BitVec.ofNat 4 (k + j)) := by
    have hreg : (BitVec.ofNat 4 (k + j)).toNat = k + j := Nat.mod_eq_of_lt (by omega)
    rw [← hbytes _ (by omega), hreg]
    apply t.readByte_congr
    simp only [a12_eq, State.indexAddr, BitVec.toNat_ofNat]
    omega
  have hhigh := hfetch 0 (by omega)
  rw [Nat.add_zero, Nat.add_zero] at hhigh
  rw [← hhigh, ← hfetch 1 (by omega)]
  exact toNat_wordOfBytes _ _

end Sys2Proof

/-! ### Drawing (spec/44_display.md R211 to R213): the loops invert the list of the pixels that set sprite bits land on -/

namespace Sys2Proof.Machine

/-- The pixels on framebuffer row `py` that the set bits of row byte `b` land on. -/
def rowCells (x0 : Byte) (py : Fin 32) (b : Byte) : List (Fin 64 × Fin 32) :=
  ((List.range 8).filter (spriteBit b)).map (fun col => (spriteCol x0 col, py))

/-- The pixels that the set bits of a sprite land on, from row number `row` on. -/
def spriteCells (x0 y0 : Byte) (row : Nat) : List Byte → List (Fin 64 × Fin 32)
  | [] => []
  | b :: bytes => rowCells x0 (spriteRow y0 row) b ++ spriteCells x0 y0 (row + 1) bytes

/-- One set sprite bit plotted. -/
def invert (c : Canvas) (p : Fin 64 × Fin 32) : Canvas := plot c p.1 p.2 true

theorem plot_eq_ite (c : Canvas) (px : Fin 64) (py : Fin 32) (bit : Bool) :
    plot c px py bit = if bit then invert c (px, py) else c := by
  cases bit <;> simp [plot, invert, erased]

theorem drawRow_eq_foldl (x0 : Byte) (py : Fin 32) (b : Byte) (c : Canvas) :
    drawRow x0 py b c = (rowCells x0 py b).foldl invert c := by
  simp only [drawRow, rowCells, List.foldl_map, List.foldl_filter, plot_eq_ite]

theorem drawRows_eq_foldl (x0 y0 : Byte) (row : Nat) (bytes : List Byte) (c : Canvas) :
    drawRows x0 y0 row bytes c = (spriteCells x0 y0 row bytes).foldl invert c := by
  induction bytes generalizing row c with
  | nil => rfl
  | cons b bytes ih => rw [drawRows, ih, drawRow_eq_foldl, spriteCells, List.foldl_append]

theorem pixel_invert (c : Canvas) (p : Fin 64 × Fin 32) (px : Fin 64) (py : Fin 32) :
    (invert c p).fb.pixel px py = (c.fb.pixel px py ^^ decide ((px, py) = p)) := by
  simp [invert, pixel_plot, Prod.ext_iff]

theorem hit_invert (c : Canvas) (p : Fin 64 × Fin 32) :
    (invert c p).hit = true ↔ c.hit = true ∨ c.fb.pixel p.1 p.2 = true := by
  simp [invert, hit_plot]

theorem pixel_invert_ne (c : Canvas) {p q : Fin 64 × Fin 32} (h : q ≠ p) :
    (invert c p).fb.pixel q.1 q.2 = c.fb.pixel q.1 q.2 := by
  simp [pixel_invert, h]

/-- Inverting pixels that are all different inverts each of them once, and records whether one of them was lit. -/
theorem foldl_invert (cells : List (Fin 64 × Fin 32)) (h : cells.Nodup) (c : Canvas) :
    (∀ px py, (cells.foldl invert c).fb.pixel px py = (c.fb.pixel px py ^^ decide ((px, py) ∈ cells))) ∧
      ((cells.foldl invert c).hit = true ↔ c.hit = true ∨ ∃ p ∈ cells, c.fb.pixel p.1 p.2 = true) := by
  induction cells generalizing c with
  | nil => simp
  | cons p cells ih =>
    obtain ⟨hp, hcells⟩ := List.nodup_cons.1 h
    obtain ⟨hpix, hhit⟩ := ih hcells (invert c p)
    refine ⟨fun px py => ?_, ?_⟩
    · rw [List.foldl_cons, hpix, pixel_invert]
      by_cases hq : (px, py) = p
      · simp [hq, hp]
      · simp [hq]
    · have hkeep : (∃ q ∈ cells, (invert c p).fb.pixel q.1 q.2 = true) ↔ ∃ q ∈ cells, c.fb.pixel q.1 q.2 = true :=
        exists_congr fun q => and_congr_right fun hq =>
          by rw [pixel_invert_ne c (ne_of_mem_of_not_mem hq hp)]
      rw [List.foldl_cons, hhit, hkeep, hit_invert, or_assoc, List.exists_mem_cons_iff]

@[simp] theorem val_spriteCol (x0 : Byte) (col : Nat) : (spriteCol x0 col).val = (x0.toNat + col) % 64 := rfl

@[simp] theorem val_spriteRow (y0 : Byte) (row : Nat) : (spriteRow y0 row).val = (y0.toNat + row) % 32 := rfl

theorem mem_rowCells (x0 : Byte) (py : Fin 32) (b : Byte) (p : Fin 64 × Fin 32) :
    p ∈ rowCells x0 py b ↔ ∃ col < 8, spriteBit b col = true ∧ p = (spriteCol x0 col, py) := by
  simp only [rowCells, List.mem_map, List.mem_filter, List.mem_range, and_assoc, eq_comm]

/-- Where a sprite's set bits land (R212). -/
theorem mem_spriteCells (x0 y0 : Byte) (row : Nat) (bytes : List Byte) (p : Fin 64 × Fin 32) :
    p ∈ spriteCells x0 y0 row bytes ↔
      ∃ (k : Nat) (hk : k < bytes.length), p ∈ rowCells x0 (spriteRow y0 (row + k)) bytes[k] := by
  induction bytes generalizing row with
  | nil => simp [spriteCells]
  | cons b bytes ih =>
    rw [spriteCells, List.mem_append, ih]
    constructor
    · rintro (hp | ⟨k, hk, hp⟩)
      · exact ⟨0, by simp, hp⟩
      · rw [Nat.add_assoc, Nat.add_comm 1] at hp
        exact ⟨k + 1, Nat.succ_lt_succ hk, hp⟩
    · rintro ⟨_ | k, hk, hp⟩
      · exact .inl hp
      · refine .inr ⟨k, Nat.lt_of_succ_lt_succ hk, ?_⟩
        rw [Nat.add_assoc, Nat.add_comm 1]
        exact hp

/-- Eight columns do not lap the 64 of the screen. -/
theorem nodup_rowCells (x0 : Byte) (py : Fin 32) (b : Byte) : (rowCells x0 py b).Nodup := by
  refine List.Nodup.map_on (fun c hc d hd heq => ?_) (List.nodup_range.filter _)
  have hcol := congrArg (fun p => p.1.val) heq
  simp only [List.mem_filter, List.mem_range, val_spriteCol] at hc hd hcol
  omega

/-- Up to 32 rows do not lap the 32 of the screen. -/
theorem nodup_spriteCells (x0 y0 : Byte) (row : Nat) (bytes : List Byte) (h : bytes.length ≤ 32) :
    (spriteCells x0 y0 row bytes).Nodup := by
  induction bytes generalizing row with
  | nil => exact List.nodup_nil
  | cons b bytes ih =>
    rw [List.length_cons] at h
    refine List.nodup_append'.2 ⟨nodup_rowCells _ _ _, ih _ (by omega), fun p hp hq => ?_⟩
    obtain ⟨k, hk, hq⟩ := (mem_spriteCells _ _ _ _ _).1 hq
    obtain ⟨_, _, _, rfl⟩ := (mem_rowCells _ _ _ _).1 hp
    obtain ⟨_, _, _, heq⟩ := (mem_rowCells _ _ _ _).1 hq
    have hrow := congrArg (fun p => p.2.val) heq
    simp only [val_spriteRow] at hrow
    omega

/-- The cells of the sprite that `Dxyn` draws (R211, D11). -/
def State.drawnCells (s : State) (x y n : Nibble) : List (Fin 64 × Fin 32) :=
  spriteCells (s.getV x) (s.getV y) 0 (s.readBytes (s.indexAddr 0) n.toNat)

theorem mem_drawnCells (s : State) (x y n : Nibble) (px : Fin 64) (py : Fin 32) :
    (px, py) ∈ s.drawnCells x y n ↔ SpriteCovers s x y n px py := by
  simp only [State.drawnCells, mem_spriteCells, mem_rowCells, SpriteCovers, State.length_readBytes,
    State.getElem_readBytes, Prod.mk.injEq, Fin.ext_iff, val_spriteCol, val_spriteRow, State.indexAddr, spriteBit,
    Nat.add_zero, Nat.zero_add]
  constructor
  · rintro ⟨row, hrow, col, hcol, hbit, hpx, hpy⟩
    exact ⟨row, col, hrow, hcol, hpx, hpy, hbit⟩
  · rintro ⟨row, col, hrow, hcol, hpx, hpy, hbit⟩
    exact ⟨row, hrow, col, hcol, hbit, hpx, hpy⟩

/-- The picture after a draw, and its collision flag. -/
def State.drawn (s : State) (x y n : Nibble) : Canvas := (s.drawnCells x y n).foldl invert ⟨s.fb, false⟩

theorem exec_drw (x y n : Nibble) (s : State) :
    exec (.drw x y n) s =
      .next (State.setV { s with fb := (s.drawn x y n).fb, rd := true } vf (flagByte (s.drawn x y n).hit)).advance := by
  rw [State.drawn, State.drawnCells, ← drawRows_eq_foldl]
  rfl

theorem nodup_drawnCells (s : State) (x y n : Nibble) : (s.drawnCells x y n).Nodup :=
  nodup_spriteCells _ _ _ _ (by have := n.isLt; rw [State.length_readBytes]; omega)

/-- The drawn picture is the old one with the covered pixels inverted. -/
theorem pixel_drawn (s : State) (x y n : Nibble) (px : Fin 64) (py : Fin 32) :
    (s.drawn x y n).fb.pixel px py = (s.fb.pixel px py ^^ decide ((px, py) ∈ s.drawnCells x y n)) :=
  (foldl_invert _ (nodup_drawnCells s x y n) _).1 px py

/-- A draw hits when some covered pixel was lit. -/
theorem hit_drawn (s : State) (x y n : Nibble) :
    (s.drawn x y n).hit = true ↔ ∃ px py, SpriteCovers s x y n px py ∧ s.fb.pixel px py = true := by
  simp only [State.drawn, (foldl_invert _ (nodup_drawnCells s x y n) _).2, Bool.false_eq_true, false_or, Prod.exists,
    mem_drawnCells]

end Sys2Proof.Machine

namespace Sys2Proof

open Machine

/-- Settles O41: the loops invert the covered pixels, which are all different, once each. -/
theorem drawIsPointwiseXor : Obligations.DrawIsPointwiseXor := by
  intro x y n s
  refine ⟨_, exec_drw x y n s, fun px py hcov => ?_, fun px py hcov => ?_, fun hhit => ?_, fun hhit => ?_, rfl,
    State.toNat_pc_advance _, ((Framed.paint s _).append (Framed.setV _ vf _)).advance⟩
  · rw [← mem_drawnCells] at hcov
    rw [State.advance_fb, State.setV_fb, pixel_drawn, decide_eq_true hcov, Bool.xor_true]
  · rw [← mem_drawnCells] at hcov
    rw [State.advance_fb, State.setV_fb, pixel_drawn, decide_eq_false hcov, Bool.xor_false]
  · rw [State.getV_advance, State.getV_setV_same, (hit_drawn s x y n).2 hhit]
    rfl
  · rw [State.getV_advance, State.getV_setV_same, Bool.eq_false_iff.2 (mt (hit_drawn s x y n).1 hhit)]
    rfl

/-- Settles O42: the first draw leaves what decides which pixels are covered. -/
theorem drawingTwiceRestoresTheScreen : Obligations.DrawingTwiceRestoresTheScreen := by
  intro x y n s hx hy
  obtain ⟨t, hdraw, hinv, hkeep, -, -, -, -, hframe⟩ := drawIsPointwiseXor x y n s
  obtain ⟨u, hdraw', hinv', hkeep', hhit, hmiss, -, -, -⟩ := drawIsPointwiseXor x y n t
  have hcov (px py) : SpriteCovers t x y n px py ↔ SpriteCovers s x y n px py := by
    have hi : t.i = s.i := hframe.2 .index (by simp)
    have hmem : ∀ a, t.readByte a = s.readByte a := hframe.2 .memory (by simp)
    rw [SpriteCovers, SpriteCovers, hframe.1 x (by simpa using hx), hframe.1 y (by simpa using hy), hi]
    simp only [hmem]
  refine ⟨t, u, hdraw, hdraw', Framebuffer.ext_pixel _ _ fun px py => ?_, ?_⟩
  · by_cases h : SpriteCovers s x y n px py
    · rw [hinv' px py ((hcov px py).2 h), hinv px py h, Bool.not_not]
    · rw [hkeep' px py (mt (hcov px py).1 h), hkeep px py h]
  · have hlit : (∃ px py, SpriteCovers t x y n px py ∧ t.fb.pixel px py = true) ↔
        ∃ px py, SpriteCovers s x y n px py ∧ s.fb.pixel px py = false :=
      exists₂_congr fun px py => (and_congr_left' (hcov px py)).trans <| and_congr_right fun h => by
        rw [hinv px py h, Bool.not_eq_true']
    rw [← hlit]
    refine ⟨fun hone => ?_, hhit⟩
    by_contra hdark
    exact absurd ((hmiss hdark).symm.trans hone) (by decide)

end Sys2Proof

/-! ### Keys, sound (spec/45_keypad_and_timers.md) -/

namespace Sys2Proof.Machine

theorem State.keyDown_keyOf (s : State) (b : Byte) :
    s.keyDown (keyOf b) = s.keys[b.toNat % 16]'(Nat.mod_lt _ (by decide)) := by
  simp only [State.keyDown, toNat_keyOf]

theorem State.pressedKeys_eq_nil (s : State) : s.pressedKeys = [] ↔ ∀ k, s.keyDown k = false := by
  simp only [List.eq_nil_iff_forall_not_mem, State.mem_pressedKeys, Bool.not_eq_true]

/-- The sound output is the level of `ST`. -/
theorem State.soundActive_iff (s : State) : s.soundActive = true ↔ s.st.toNat ≠ 0 := by
  simp [State.soundActive, BitVec.toNat_eq]

end Sys2Proof.Machine

namespace Sys2Proof

open Machine

/-- Settles O43: `keyOf` takes the low four bits. -/
theorem keySkipsTestTheKey : Obligations.KeySkipsTestTheKey := by
  intro x s
  refine ⟨⟨_, exec_skp x s, ?_, Framed.skipIf s _⟩, _, exec_sknp x s, ?_, Framed.skipIf s _⟩
  · rw [State.toNat_pc_skipIf, State.keyDown_keyOf]
  · simp only [State.toNat_pc_skipIf, State.keyDown_keyOf, Bool.not_eq_true']

/-- Settles O45: the key picked is a pressed one, whichever it is. -/
theorem keyWaitReportsAPressedKey : Obligations.KeyWaitReportsAPressedKey := by
  rintro x s ⟨j, hj⟩
  obtain ⟨k, hpick⟩ := exists_keywaitPick (List.ne_nil_of_mem ((s.mem_pressedKeys j).2 hj))
  have hdown : s.keyDown k = true := (s.mem_pressedKeys k).1 (keywaitPick_mem _ k hpick)
  obtain ⟨hreg, hpc, hframe⟩ := s.setV_advance_spec x (keyByte k)
  refine ⟨_, k, exec_ldVxK_pick x s hpick, hdown, ?_, fun j honly => honly k hdown, hpc, hframe⟩
  rw [hreg, toNat_keyByte]

/-- Settles O46: a waiting instruction answers the state it got, so the step is the tick. -/
theorem keyWaitLeavesTheStateAlone : Obligations.KeyWaitLeavesTheStateAlone := by
  intro x s hkeys
  have hexec := exec_ldVxK_wait x s (s.pressedKeys_eq_nil.2 hkeys)
  exact ⟨hexec, fun hs hdec =>
    ⟨_, step_of_exec hs hdec hexec hs, rfl, s.toNat_tick_dt, s.toNat_tick_st, Framed.tick s⟩⟩

/-- Settles O48: the write of `ST` comes before the tick, and the output follows what is written. -/
theorem soundTimerIsSet : Obligations.SoundTimerIsSet := by
  intro x s
  refine ⟨⟨_, exec_ldStVx x s, rfl, State.toNat_pc_advance _, State.soundActive_iff _, (Framed.setSt s _).advance⟩,
    fun hs hdec => ?_⟩
  exact ⟨_, step_of_exec hs hdec (exec_ldStVx x s) hs, State.toNat_tick_st _⟩

end Sys2Proof

/-! ### What no instruction can read: the redraw flag, the sound timer, the reports (R32, R34(b), R44) -/

namespace Sys2Proof.Machine

theorem eraseObservers_writeBytes (s : State) (a : Nat) (bytes : List Byte) :
    s.eraseObservers.writeBytes a bytes = (s.writeBytes a bytes).eraseObservers := by
  induction bytes generalizing s a with
  | nil => rfl
  | cons b bytes ih => exact ih (s.writeByte a b) (a + 1)

theorem eraseObservers_setRegs (s : State) (k : Nat) (bytes : List Byte) :
    s.eraseObservers.setRegs k bytes = (s.setRegs k bytes).eraseObservers := by
  induction bytes generalizing s k with
  | nil => rfl
  | cons b bytes ih => exact ih (s.setV (BitVec.ofNat 4 k) b) (k + 1)

/-- An instruction answers the same whether or not the observers are erased first, but for the observers. -/
theorem exec_eraseObservers (i : Instr) (s : State) :
    mapNext State.eraseObservers (exec i s.eraseObservers) = mapNext State.eraseObservers (exec i s) := by
  cases i with
  | ldB | ldMemVx =>
    exact congrArg (fun t => Host.Outcome.next t.advance.eraseObservers) (eraseObservers_writeBytes s _ _)
  | ldVxMem =>
    exact congrArg (fun t => Host.Outcome.next t.advance.eraseObservers) (eraseObservers_setRegs s _ _)
  | ret =>
    by_cases hsp : s.sp.val = 0
    · rw [exec_ret_empty s hsp, exec_ret_empty s.eraseObservers hsp]
      rfl
    · rw [exec_ret_pop s hsp, exec_ret_pop s.eraseObservers hsp]
      rfl
  | call nnn =>
    by_cases hsp : s.sp.val < 16
    · rw [exec_call_push nnn s hsp, exec_call_push nnn s.eraseObservers hsp]
      rfl
    · have hfull : s.sp.val = 16 := by omega
      rw [exec_call_full nnn s hfull, exec_call_full nnn s.eraseObservers hfull]
      rfl
  | ldVxK x =>
    by_cases hk : s.pressedKeys = []
    · rw [exec_ldVxK_wait x s hk, exec_ldVxK_wait x s.eraseObservers hk]
      rfl
    · obtain ⟨k, hpick⟩ := exists_keywaitPick hk
      rw [exec_ldVxK_pick x s hpick, exec_ldVxK_pick x s.eraseObservers hpick]
      rfl
  | _ => rfl

theorem runWord_eraseObservers (w : Word) (s : State) :
    mapNext State.eraseObservers (runWord w s.eraseObservers) = mapNext State.eraseObservers (runWord w s) := by
  cases hdec : decode w with
  | ok i => rw [runWord_of_decode hdec, runWord_of_decode hdec, exec_eraseObservers]
  | error e => rw [runWord_of_error hdec, runWord_of_error hdec]; rfl

theorem endCycle_eraseObservers (s : State) : (endCycle s.eraseObservers).eraseObservers = (endCycle s).eraseObservers := by
  obtain ⟨hs, hend⟩ | ⟨hs, hend⟩ := endCycle_cases s
  · rw [hend, endCycle_running s.eraseObservers hs]
    rfl
  · obtain ⟨e, he⟩ := Option.ne_none_iff_exists'.1 hs
    rw [hend, endCycle_halted (s := s.eraseObservers) he]
    rfl

theorem step_eraseObservers (s : State) :
    mapNext State.eraseObservers (step s.eraseObservers) = mapNext State.eraseObservers (step s) := by
  cases hs : s.halt with
  | some e => rw [step_halted hs, step_halted (s := s.eraseObservers) hs]
  | none =>
    obtain ⟨u, hu⟩ := exists_runWord_next s.fetchWord s
    obtain ⟨q, hq⟩ := exists_runWord_next s.fetchWord s.eraseObservers
    have hrun := runWord_eraseObservers s.fetchWord s
    rw [hu, hq] at hrun
    have hsame : q.eraseObservers = u.eraseObservers := Host.Outcome.next.inj hrun
    rw [step_running s u hs hu, step_running s.eraseObservers q hs hq]
    refine congrArg Host.Outcome.next ?_
    rw [← endCycle_eraseObservers q, hsame, endCycle_eraseObservers u]

end Sys2Proof.Machine

namespace Sys2Proof

open Machine

/-- Settles O52: both states step as the state with the observers erased. -/
theorem observersNeverAffectExecution : Obligations.ObserversNeverAffectExecution := by
  intro s q h
  rw [← step_eraseObservers s, h, step_eraseObservers q]

end Sys2Proof

/-! ### Stack entries at or above `SP` (R26, R44(d); D7) -/

namespace Sys2Proof.Machine

/-- `q` is `s` but for stack entries at or above `SP`. -/
def SameButStale (s q : State) : Prop :=
  ∃ stk : Vector Word 16, q = { s with stack := stk } ∧ ∀ k (h : k < 16), k < s.sp.val → stk[k] = s.stack[k]

/-- A result that keeps the depth and the stack keeps what is live, so its other entries may be any. -/
theorem SameButStale.of_frame {s t : State} {stk : Vector Word 16} (hst : t.sp = s.sp ∧ t.stack = s.stack)
    (hlive : ∀ k (h : k < 16), k < s.sp.val → stk[k] = s.stack[k]) : SameButStale t { t with stack := stk } :=
  ⟨stk, rfl, fun k h hk => by simp only [hst.2]; exact hlive k h (hst.1 ▸ hk)⟩

theorem withStack_writeBytes (s : State) (stk : Vector Word 16) (a : Nat) (bytes : List Byte) :
    State.writeBytes { s with stack := stk } a bytes = { s.writeBytes a bytes with stack := stk } := by
  induction bytes generalizing s a with
  | nil => rfl
  | cons b bytes ih => exact ih (s.writeByte a b) (a + 1)

theorem withStack_setRegs (s : State) (stk : Vector Word 16) (k : Nat) (bytes : List Byte) :
    State.setRegs { s with stack := stk } k bytes = { s.setRegs k bytes with stack := stk } := by
  induction bytes generalizing s k with
  | nil => rfl
  | cons b bytes ih => exact ih (s.setV (BitVec.ofNat 4 k) b) (k + 1)

/-- An instruction other than a call and a return answers the same with another stack, but for that stack. -/
theorem exec_withStack {i : Instr} (hi : Part.stack ∉ writtenParts i) {s t : State} (h : exec i s = .next t)
    (stk : Vector Word 16) : exec i { s with stack := stk } = .next { t with stack := stk } := by
  cases i with
  | ret | call => simp [writtenParts] at hi
  | ldB | ldMemVx =>
    cases h
    exact congrArg (fun t => Host.Outcome.next t.advance) (withStack_writeBytes s stk _ _)
  | ldVxMem =>
    cases h
    exact congrArg (fun t => Host.Outcome.next t.advance) (withStack_setRegs s stk _ _)
  | ldVxK x =>
    by_cases hk : s.pressedKeys = []
    · cases (exec_ldVxK_wait x s hk).symm.trans h
      exact exec_ldVxK_wait x { s with stack := stk } hk
    · obtain ⟨k, hpick⟩ := exists_keywaitPick hk
      cases (exec_ldVxK_pick x s hpick).symm.trans h
      exact exec_ldVxK_pick x { s with stack := stk } hpick
  | _ => cases h; rfl

theorem exec_sameButStale (i : Instr) {s q t : State} (hq : SameButStale s q) (h : exec i s = .next t) :
    ∃ u, exec i q = .next u ∧ SameButStale t u := by
  obtain ⟨stk, rfl, hlive⟩ := hq
  cases i with
  | ret =>
    obtain ⟨hsp, rfl⟩ | ⟨hsp, rfl⟩ := ret_cases h
    · exact ⟨_, exec_ret_empty _ hsp, stk, rfl, hlive⟩
    · refine ⟨_, exec_ret_pop _ hsp, stk, ?_, fun k hk hlt => hlive k hk ?_⟩
      · rw [hlive (s.sp.val - 1) (by omega) (by omega)]
        rfl
      · exact Nat.lt_of_lt_of_le hlt (Nat.sub_le _ _)
  | call nnn =>
    obtain ⟨hsp, rfl⟩ | ⟨hsp, rfl⟩ := call_cases h
    · exact ⟨_, exec_call_full nnn _ hsp, stk, rfl, hlive⟩
    · refine ⟨_, exec_call_push nnn { s with stack := stk } hsp, stk.set s.sp.val (s.pc + 2) hsp, rfl, fun k hk hlt => ?_⟩
      have hle : k < s.sp.val + 1 := hlt
      simp only [State.jumpTo_stack, Vector.getElem_set]
      split
      · rfl
      · exact hlive k hk (by omega)
  | _ =>
    exact ⟨_, exec_withStack (by simp [writtenParts]) h stk,
      SameButStale.of_frame ((exec_framed _ h).2 .stack (by simp [writtenParts])) hlive⟩

theorem runWord_sameButStale (w : Word) {s q t : State} (hq : SameButStale s q) (h : runWord w s = .next t) :
    ∃ u, runWord w q = .next u ∧ SameButStale t u := by
  cases hdec : decode w with
  | ok i =>
    rw [runWord_of_decode hdec] at h ⊢
    exact exec_sameButStale i hq h
  | error e =>
    cases (runWord_of_error hdec s).symm.trans h
    obtain ⟨stk, rfl, hlive⟩ := hq
    exact ⟨_, runWord_of_error hdec _, stk, rfl, hlive⟩

theorem endCycle_sameButStale {s q : State} (hq : SameButStale s q) : SameButStale (endCycle s) (endCycle q) := by
  obtain ⟨stk, rfl, hlive⟩ := hq
  rw [endCycle_eq_ite, endCycle_eq_ite]
  split
  · exact ⟨stk, rfl, hlive⟩
  · exact ⟨stk, rfl, hlive⟩

end Sys2Proof.Machine

namespace Sys2Proof

open Machine

/-- Settles O53: running the word and ending the cycle each keep the two states alike but for stale entries. -/
theorem staleStackEntriesAreInvisible : Obligations.StaleStackEntriesAreInvisible := by
  intro s t stk hlive hstep
  obtain ⟨hs, u, hrun, rfl⟩ := step_next s t hstep
  have hq : SameButStale s { s with stack := stk } := ⟨stk, rfl, hlive⟩
  obtain ⟨v, hrun', hsame⟩ := runWord_sameButStale s.fetchWord hq hrun
  obtain ⟨stk', heq, hlive'⟩ := endCycle_sameButStale hsame
  exact ⟨_, step_running { s with stack := stk } v hs hrun', by rw [heq], by rw [heq]; exact hlive'⟩

end Sys2Proof
